-- ==== Sys2Proof/Word.lean ====
section
/-! DEFINITION. The word types of QSAB: a 32-bit host word, an 8-bit byte or character. -/

namespace Sys2Proof

/-- A 32-bit register of the host window, or a command word (spec/10_state.md R24, spec/30_encoding.md R65). -/
abbrev Word := BitVec 32

/-- A data byte of a buffer, or an 8-bit character code of `OUT` (spec/00_scope.md R9). -/
abbrev Byte := BitVec 8

end Sys2Proof
end

