-- ==== Sys2Proof/Config.lean ====
section
/-! DEFINITION. What is fixed for this machine (spec/00_scope.md R6), the two OPEN parameters, and the free values:
what the spec leaves unspecified. A free value has no body, so nothing can be proved about which value it is. -/

namespace Sys2Proof.Config

/-- NBUF: the number of buffer registers (spec/00_scope.md R6, fixed). -/
abbrev nbuf : Nat := 8

/-- MAXLEN: the capacity of a buffer register in bytes (spec/00_scope.md R6, fixed). -/
abbrev maxLen : Nat := 16

/-- CNTW: the width of the count register in bits (spec/00_scope.md R6, fixed). -/
abbrev cntWidth : Nat := 129

/-- OUTMAX: the capacity of the output string buffer in characters (spec/00_scope.md R6, fixed). -/
abbrev outMax : Nat := 143

/-- V4MAPPED_DOTTED: FSHEX writes IPv4-mapped values in dotted decimal (spec/00_scope.md R6, fixed: true). -/
def v4MappedDotted : Bool := true

/-- OPEN parameter: the number of the 4 KiB page of the host bus at which the window sits.
DESIGN CHOICE (log entry 11): a page number, so that the base is 4 KiB aligned by construction. -/
opaque blockPage : Nat

/-- OPEN parameter BLOCK_BASE: the host bus address of register offset 0x000, 4 KiB aligned (spec/00_scope.md R6). -/
def blockBase : Nat := blockPage * 0x1000

/-- OPEN parameter LAT: the number of further steps between the acceptance of a command and its completion, for the
acceptance that takes draw `n`: any finite duration, which may differ per command (spec/00_scope.md R6,
spec/70_reset_and_hazards.md R137, R138). Log entry 3. -/
opaque latency : (n : Nat) → Nat

/-- Free value: the content of data byte `k` of buffer register `i` after reset number `epoch`
(spec/10_state.md R48, R49: unspecified, and two resets may leave different values). Log entry 1. -/
opaque resetByte : (epoch i k : Nat) → Byte

/-- Free value: the arbitrary byte a command reads at data byte `k` of its operand number `slot` (0: RS1, 1: RS2) where
that byte was never written, or where a HostHazard leaves the operands unconstrained, at the completion that takes
draw `n` (spec/40_command_execution.md R79, spec/70_reset_and_hazards.md R130, R133). Log entry 2. -/
opaque operandByte : (n slot k : Nat) → Byte

/-- Free value: the length a command reads for its operand number `slot` after a HostHazard, at the completion that
takes draw `n`; at most MAXLEN (spec/70_reset_and_hazards.md R133, spec/10_state.md R19). Log entry 2. -/
opaque operandLen : (n slot : Nat) → Fin 17

/-- Free value: the count FCNT reads after a HostHazard, at the completion that takes draw `n`
(spec/70_reset_and_hazards.md R133). Log entry 5. -/
opaque operandCnt : (n : Nat) → BitVec 129

/-- Free value: the length a buffer register is left with by a HostHazard that takes draw `n`
(spec/70_reset_and_hazards.md R133). Log entry 4. -/
opaque hazardLen : (n : Nat) → Fin 17

/-- Free value: data byte `k` a buffer register is left with by a HostHazard that takes draw `n`
(spec/70_reset_and_hazards.md R133). Log entry 4. -/
opaque hazardByte : (n k : Nat) → Byte

/-- Free value: the word a host read of a result register returns while BUSY = 1, for the read that takes draw `n`
(spec/70_reset_and_hazards.md R134). Log entry 6. -/
opaque busyWord : (n : Nat) → Word

end Sys2Proof.Config
end

