-- ==== Sys2Proof/Syntax.lean ====
section
/-! DEFINITION. The commands of QSAB as syntax (spec/00_scope.md R3, spec/30_encoding.md R70), the raw fields of a command
word (R66), and the one pseudo-instruction `range` (R76). -/

namespace Sys2Proof

/-- A buffer register name `v0`..`v7` (spec/10_state.md R16, R17; a register field holds 0..7, spec/30_encoding.md R67). -/
abbrev Reg := Fin 8

/-- The eleven commands, one constructor per row of the opcode table, operands in the order of the assembly syntax of
spec/30_encoding.md R75 (destination first). -/
inductive Instr where
  | nop
  | and (d a b : Reg)
  | or (d a b : Reg)
  | not (d a : Reg)
  | card (a b : Reg)
  | fbin (a : Reg)
  | fdec8 (a : Reg)
  | fdec16 (a : Reg)
  | fhex (a : Reg)
  | fshex (a : Reg)
  | fcnt
  deriving DecidableEq, Repr

/-- The mnemonics: what the OP field of a legal word can name (spec/30_encoding.md R70). -/
inductive Op where
  | nop | and | or | not | card | fbin | fdec8 | fdec16 | fhex | fshex | fcnt
  deriving DecidableEq, Repr

/-- The row of `op` in spec/30_encoding.md R70 marks RD as used. -/
def Op.usesRd : Op → Bool
  | .and | .or | .not => true
  | .nop | .card | .fbin | .fdec8 | .fdec16 | .fhex | .fshex | .fcnt => false

/-- The row of `op` in spec/30_encoding.md R70 marks RS1 as used. -/
def Op.usesRs1 : Op → Bool
  | .and | .or | .not | .card | .fbin | .fdec8 | .fdec16 | .fhex | .fshex => true
  | .nop | .fcnt => false

/-- The row of `op` in spec/30_encoding.md R70 marks RS2 as used. -/
def Op.usesRs2 : Op → Bool
  | .and | .or | .card => true
  | .nop | .not | .fbin | .fdec8 | .fdec16 | .fhex | .fshex | .fcnt => false

/-- A command with a known mnemonic and raw field values, legal or not (spec/30_encoding.md R66). -/
structure RawCmd where
  op  : Op
  rsv : BitVec 12
  rd  : BitVec 4
  rs1 : BitVec 4
  rs2 : BitVec 4
  deriving DecidableEq, Repr

/-- The field that holds register `r` (spec/30_encoding.md R69: the unsigned 4-bit number, no shift). -/
def Reg.field (r : Reg) : BitVec 4 := BitVec.ofNat 4 r.val

/-- The raw fields of a command: the reserved field and every unused field are 0 (spec/30_encoding.md R67, R68). -/
def Instr.raw : Instr → RawCmd
  | .nop => ⟨.nop, 0, 0, 0, 0⟩
  | .and d a b => ⟨.and, 0, Reg.field d, Reg.field a, Reg.field b⟩
  | .or d a b => ⟨.or, 0, Reg.field d, Reg.field a, Reg.field b⟩
  | .not d a => ⟨.not, 0, Reg.field d, Reg.field a, 0⟩
  | .card a b => ⟨.card, 0, 0, Reg.field a, Reg.field b⟩
  | .fbin a => ⟨.fbin, 0, 0, Reg.field a, 0⟩
  | .fdec8 a => ⟨.fdec8, 0, 0, Reg.field a, 0⟩
  | .fdec16 a => ⟨.fdec16, 0, 0, Reg.field a, 0⟩
  | .fhex a => ⟨.fhex, 0, 0, Reg.field a, 0⟩
  | .fshex a => ⟨.fshex, 0, 0, Reg.field a, 0⟩
  | .fcnt => ⟨.fcnt, 0, 0, 0, 0⟩

/-- The operands of the pseudo-instruction `range vF, vL, vA, vM, vT` (spec/30_encoding.md R76). -/
structure RangeCmd where
  f : Reg
  l : Reg
  a : Reg
  m : Reg
  t : Reg
  deriving DecidableEq, Repr

end Sys2Proof
end

