-- ==== Sys2Proof/WellFormed.lean ====
section
/-! DEFINITION. Which raw commands are legal (spec/30_encoding.md R67, R68) and which `range` operands are allowed (R76). -/

namespace Sys2Proof

/-- A register field: used, it names a register 0..7, and unused it is 0 (spec/30_encoding.md R67). -/
def fieldOk (used : Bool) (f : BitVec 4) : Bool := if used then decide (f.toNat < 8) else f == 0

/-- A raw command is well-formed: RSV = 0 (R68) and each register field is as R67 requires. -/
def RawCmd.wellFormed (r : RawCmd) : Bool :=
  r.rsv == 0 && fieldOk r.op.usesRd r.rd && fieldOk r.op.usesRs1 r.rs1 && fieldOk r.op.usesRs2 r.rs2

/-- An instruction is well-formed when its raw fields are. Its operands are register names already, so every term of
`Instr` passes (Sys2Proof.Laws.WellFormedRaw says so per constructor); the checks bite on raw commands. -/
def Instr.wellFormed (i : Instr) : Bool := i.raw.wellFormed

/-- The operand conditions of `range`: vF differs from vA, vM, vT and vL, and vT differs from vA
(spec/30_encoding.md R76). -/
def RangeCmd.wellFormed (r : RangeCmd) : Bool :=
  r.f != r.a && r.f != r.m && r.f != r.t && r.f != r.l && r.t != r.a

end Sys2Proof
end

