-- ==== Sys2Proof/Decode.lean ====
section
/-! DEFINITION. The decoder (spec/30_encoding.md R72), the encoder (R75), the match and mask table (R71), and the assembler's
expansion of `range` (R76). -/

namespace Sys2Proof

/-- Why a word is illegal (spec/30_encoding.md R73). All four end the same way, with ERR = 2; of a word with several, the
decoder names one (log entry 19). -/
inductive Illegal where
  | reservedField    -- RSV ≠ 0
  | unknownOpcode    -- OP not in the opcode map
  | noSuchRegister   -- a used register field ≥ 8
  | unusedField      -- an unused register field ≠ 0
  deriving DecidableEq, Repr

/-- What the decoder answers. -/
inductive Decoded where
  | instr (i : Instr)
  | illegal (why : Illegal)
  deriving DecidableEq, Repr

/-- The command of a legal word. -/
def Decoded.instr? : Decoded → Option Instr
  | .instr i => some i
  | .illegal _ => none

/-- The fields of a command word (spec/30_encoding.md R66). -/
def fieldOp (w : Word) : BitVec 8 := w.extractLsb' 24 8
def fieldRsv (w : Word) : BitVec 12 := w.extractLsb' 12 12
def fieldRd (w : Word) : BitVec 4 := w.extractLsb' 8 4
def fieldRs1 (w : Word) : BitVec 4 := w.extractLsb' 4 4
def fieldRs2 (w : Word) : BitVec 4 := w.extractLsb' 0 4

/-- The register a used field names: 0..7, and none for 8..15 (spec/30_encoding.md R67). -/
def reg? (f : BitVec 4) : Option Reg := if h : f.toNat < 8 then some ⟨f.toNat, h⟩ else none

/-- A row with no used field. -/
def decode0 (rd a b : BitVec 4) (i : Instr) : Decoded :=
  if rd = 0 ∧ a = 0 ∧ b = 0 then .instr i else .illegal .unusedField

/-- A row that uses RS1 alone. -/
def decodeA (rd a b : BitVec 4) (k : Reg → Instr) : Decoded :=
  if rd = 0 ∧ b = 0 then
    match reg? a with
    | some x => .instr (k x)
    | none => .illegal .noSuchRegister
  else .illegal .unusedField

/-- A row that uses RS1 and RS2. -/
def decodeAB (rd a b : BitVec 4) (k : Reg → Reg → Instr) : Decoded :=
  if rd = 0 then
    match reg? a, reg? b with
    | some x, some y => .instr (k x y)
    | _, _ => .illegal .noSuchRegister
  else .illegal .unusedField

/-- A row that uses RD and RS1. -/
def decodeDA (rd a b : BitVec 4) (k : Reg → Reg → Instr) : Decoded :=
  if b = 0 then
    match reg? rd, reg? a with
    | some d, some x => .instr (k d x)
    | _, _ => .illegal .noSuchRegister
  else .illegal .unusedField

/-- A row that uses RD, RS1 and RS2. -/
def decodeDAB (rd a b : BitVec 4) (k : Reg → Reg → Reg → Instr) : Decoded :=
  match reg? rd, reg? a, reg? b with
  | some d, some x, some y => .instr (k d x y)
  | _, _, _ => .illegal .noSuchRegister

/-- The decoder, a total function from 32-bit words (spec/30_encoding.md R72). -/
def decode (w : Word) : Decoded :=
  let rd := fieldRd w
  let a := fieldRs1 w
  let b := fieldRs2 w
  if fieldRsv w ≠ 0 then .illegal .reservedField
  else if fieldOp w = 0x00 then decode0 rd a b .nop
  else if fieldOp w = 0x01 then decodeDAB rd a b .and
  else if fieldOp w = 0x02 then decodeDAB rd a b .or
  else if fieldOp w = 0x03 then decodeDA rd a b .not
  else if fieldOp w = 0x10 then decodeAB rd a b .card
  else if fieldOp w = 0x20 then decodeA rd a b .fbin
  else if fieldOp w = 0x21 then decodeA rd a b .fdec8
  else if fieldOp w = 0x22 then decodeA rd a b .fdec16
  else if fieldOp w = 0x23 then decodeA rd a b .fhex
  else if fieldOp w = 0x24 then decodeA rd a b .fshex
  else if fieldOp w = 0x28 then decode0 rd a b .fcnt
  else .illegal .unknownOpcode

/-- The OP value of each mnemonic (spec/30_encoding.md R70). -/
def Op.code : Op → BitVec 8
  | .nop => 0x00
  | .and => 0x01
  | .or => 0x02
  | .not => 0x03
  | .card => 0x10
  | .fbin => 0x20
  | .fdec8 => 0x21
  | .fdec16 => 0x22
  | .fhex => 0x23
  | .fshex => 0x24
  | .fcnt => 0x28

/-- Register number `r` placed at bit `at_` of a command word. -/
def place (r : Reg) (at_ : Nat) : Word := BitVec.ofNat 32 r.val <<< at_

/-- The encoder: the word column of spec/30_encoding.md R75. -/
def encode : Instr → Word
  | .nop => 0x00000000
  | .and d a b => 0x01000000 ||| place d 8 ||| place a 4 ||| place b 0
  | .or d a b => 0x02000000 ||| place d 8 ||| place a 4 ||| place b 0
  | .not d a => 0x03000000 ||| place d 8 ||| place a 4
  | .card a b => 0x10000000 ||| place a 4 ||| place b 0
  | .fbin a => 0x20000000 ||| place a 4
  | .fdec8 a => 0x21000000 ||| place a 4
  | .fdec16 a => 0x22000000 ||| place a 4
  | .fhex a => 0x23000000 ||| place a 4
  | .fshex a => 0x24000000 ||| place a 4
  | .fcnt => 0x28000000

/-- One row of the match and mask table. -/
structure Row where
  op   : Op
  bits : Word
  mask : Word
  deriving DecidableEq, Repr

/-- The match and mask of each command (spec/30_encoding.md R71). -/
def rows : List Row :=
  [⟨.nop, 0x00000000, 0xFFFFFFFF⟩, ⟨.and, 0x01000000, 0xFFFFF888⟩, ⟨.or, 0x02000000, 0xFFFFF888⟩,
   ⟨.not, 0x03000000, 0xFFFFF88F⟩, ⟨.card, 0x10000000, 0xFFFFFF88⟩, ⟨.fbin, 0x20000000, 0xFFFFFF8F⟩,
   ⟨.fdec8, 0x21000000, 0xFFFFFF8F⟩, ⟨.fdec16, 0x22000000, 0xFFFFFF8F⟩, ⟨.fhex, 0x23000000, 0xFFFFFF8F⟩,
   ⟨.fshex, 0x24000000, 0xFFFFFF8F⟩, ⟨.fcnt, 0x28000000, 0xFFFFFFFF⟩]

/-- A word is the row's command when `w & mask = match` (spec/30_encoding.md R71). -/
def Row.matches (r : Row) (w : Word) : Bool := w &&& r.mask == r.bits

/-- The three commands `range` expands to, in this order (spec/30_encoding.md R76). -/
def RangeCmd.expand (r : RangeCmd) : List Instr := [.and r.f r.a r.m, .not r.t r.m, .or r.l r.a r.t]

/-- The instruction the decoder reads from an instruction whose bits are `w`, numbered as the opcode table numbers them.
A command is one 32-bit word (spec/30_encoding.md R65), so the bits above `nbits` are 0 and nothing is longer than 32. -/
def decodeTableWord (nbits w : Nat) : Option Instr :=
  if nbits ≤ 32 then (decode (BitVec.ofNat 32 (w % 2 ^ nbits))).instr? else none

end Sys2Proof
end

