-- ==== Sys2Proof/Machine/State.lean ====
section
/-! DEFINITION. The state of QSAB as plain data (spec/10_state.md R15, R44 to R48), what the host can do to it, and the state
after reset. -/

namespace Sys2Proof.Machine

/-- The model-only faults (spec/00_scope.md R14). The spec has the machine go on after each of them (R46, R79, R130, R133),
so they are recorded in `State.faults` and no step stops with one: no step answers `.fault` at all. -/
inductive Fault where
  /-- A command read a data byte nothing has written since reset (spec/70_reset_and_hazards.md R130). Recorded by the
  completion of AND, OR, NOT, CARD and the buffer formatters, which complete with a free byte. Safe: a run with it
  recorded is no good run, and nothing about the byte can be proved. -/
  | unwrittenOperand
  /-- The host wrote a buffer register while BUSY = 1 (spec/70_reset_and_hazards.md R133). Recorded by the host write; the
  register and the pending command's operands become free values. Safe, for the same reason. -/
  | hostHazard
  deriving DecidableEq, Repr

/-- The refusals. -/
inductive Refusal where
  /-- An instruction with no meaning yet. No arm of `exec` raises it: every command of the table has its meaning. Safe. -/
  | notModelled (mnemonic : String)
  /-- A host access of a width or alignment QSAB does not define, or while `rst` is asserted (spec/20_memory.md R53,
  spec/70_reset_and_hazards.md R129). Recorded in `State.faults` and the access has no effect
  (spec/93_implementation_defined.md); no step stops with it. Safe. -/
  | hostAccessRefused
  deriving DecidableEq, Repr

/-- The fault set of spec/10_state.md R46: which of the three members it holds. -/
structure FaultSet where
  unwrittenOperand  : Bool
  hostHazard        : Bool
  hostAccessRefused : Bool
  deriving DecidableEq, Repr

/-- The empty fault set. -/
def FaultSet.empty : FaultSet := ⟨false, false, false⟩

/-- A buffer register (spec/10_state.md R16): its length 0..16 and 16 data bytes, and the model-only written bits of R45. -/
structure Buffer where
  len  : Fin 17
  data : Vector Byte 16
  wr   : Vector Bool 16
  deriving DecidableEq, Repr

/-- The width of a host access (spec/20_memory.md R53): only a full 32-bit access is defined. -/
inductive Width where
  | bits8 | bits16 | bits32 | bits64
  | partial32   -- a 32-bit write with partial byte enables
  deriving DecidableEq, Repr

/-- Where a host access goes: an offset relative to BLOCK_BASE (the spec's program form, spec/00_scope.md R13), or a bus
address, which reaches QSAB only inside its window (spec/20_memory.md R54). -/
inductive Place where
  | offset (o : Nat)
  | bus (a : Nat)
  deriving DecidableEq, Repr

/-- What a host access does. -/
inductive AccessKind where
  | read
  | write (v : Word)
  deriving DecidableEq, Repr

/-- One host access. -/
structure Access where
  place : Place
  width : Width
  kind  : AccessKind
  deriving DecidableEq, Repr

/-- What the outside does in one step. -/
inductive HostEvent where
  /-- A register access. -/
  | access (a : Access)
  /-- The loop `poll` of spec/00_scope.md R13: read STATUS, again and again, until its bit 0 is 0. -/
  | poll
  /-- The platform drives the `rst` input (spec/70_reset_and_hazards.md R127): true asserts it, false releases it. -/
  | rst (level : Bool)
  deriving DecidableEq, Repr

/-- `W offset, value` of spec/00_scope.md R13. -/
def HostEvent.W (off : Nat) (v : Word) : HostEvent := .access ⟨.offset off, .bits32, .write v⟩

/-- `R offset` of spec/00_scope.md R13. -/
def HostEvent.R (off : Nat) : HostEvent := .access ⟨.offset off, .bits32, .read⟩

/-- The state of the machine. The fields up to `faults` are the record of spec/10_state.md R47 (BUSY is `pend`, R44); ID and
PARAM are constants (R47). The fields after it are the `rst` input (log entry 18) and the model's own (log entries 7, 9). -/
structure State where
  /-- V0..V7 with the written bits (R16, R45). -/
  v      : Vector Buffer 8
  /-- CNT (R40). -/
  cnt    : BitVec 129
  /-- OUT (R41). -/
  out    : Vector Byte 143
  /-- OUTLEN (R31). -/
  outlen : Fin 144
  /-- The pending command (R44); STATUS.BUSY = 1 exactly when it is not none. -/
  pend   : Option Word
  /-- STATUS.DONE (R25). -/
  done   : Bool
  /-- STATUS.ERRS (R25). -/
  errs   : Bool
  /-- STATUS.OVR (R28). -/
  ovr    : Bool
  /-- STATUS.ERR (R27). -/
  err    : BitVec 4
  /-- CTRL.DONEIE (R30). -/
  doneie : Bool
  /-- CTRL.ERRIE (R30). -/
  errie  : Bool
  /-- The fault set (R46). -/
  faults : FaultSet
  /-- The `rst` input, true while asserted (spec/70_reset_and_hazards.md R127). -/
  rst    : Bool
  /-- Model's own: the buffer registers the host wrote while the pending command was pending (R133). -/
  hits   : Vector Bool 8
  /-- Model's own: how many steps the pending command still waits (LAT, R77, R138). -/
  wait   : Nat
  /-- Model's own: the number of the next draw of a free value. -/
  draws  : Nat
  /-- Model's own: how often `rst` was asserted, so that two resets leave different DATA (R49). -/
  resets : Nat
  /-- Model's own: what the host and the platform will do, in order (spec/20_memory.md R59). -/
  host   : List HostEvent
  /-- Model's own: the words the host's reads returned, newest first. -/
  reads  : List Word
  deriving DecidableEq, Repr

/-- Buffer register `i` after reset number `epoch`: length 0, unspecified data, nothing written (R48, R49). -/
def Buffer.reset (epoch i : Nat) : Buffer :=
  { len := 0
    data := Vector.ofFn fun k => Config.resetByte epoch i k.val
    wr := Vector.replicate 16 false }

/-- Every piece of QSAB at its reset value (R48), after reset number `epoch`. -/
def State.resetAt (epoch : Nat) : State :=
  { v := Vector.ofFn fun i => Buffer.reset epoch i.val
    cnt := 0
    out := Vector.replicate 143 0
    outlen := 0
    pend := none
    done := false
    errs := false
    ovr := false
    err := 0
    doneie := false
    errie := false
    faults := FaultSet.empty
    rst := false
    hits := Vector.replicate 8 false
    wait := 0
    draws := 0
    resets := epoch
    host := []
    reads := [] }

/-- The machine right after reset (R48): nothing pending, nothing queued by the host. -/
def State.reset : State := State.resetAt 0

end Sys2Proof.Machine
end

