-- ==== Sys2Proof/Machine/Flags.lean ====
section
/-! DEFINITION. The flags: STATUS and CTRL as words (spec/10_state.md R25, R30), the W1C write, and the interrupt line
(spec/60_exceptions.md R114). -/

namespace Sys2Proof.Machine

/-- STATUS.BUSY (spec/10_state.md R26, R44). -/
def State.busy (s : State) : Bool := s.pend.isSome

/-- One bit as a word, at bit `at_`. -/
def bitAt (b : Bool) (at_ : Nat) : Word := (BitVec.ofBool b).setWidth 32 <<< at_

/-- STATUS as the host reads it: BUSY bit 0, DONE bit 1, ERR bits 7:4, ERRS bit 8, OVR bit 9, the rest 0
(spec/10_state.md R25). -/
def State.statusWord (s : State) : Word :=
  bitAt s.busy 0 ||| bitAt s.done 1 ||| (s.err.setWidth 32 <<< 4) ||| bitAt s.errs 8 ||| bitAt s.ovr 9

/-- CTRL as the host reads it: DONEIE bit 0, ERRIE bit 1, the rest 0 (spec/10_state.md R30). -/
def State.ctrlWord (s : State) : Word := bitAt s.doneie 0 ||| bitAt s.errie 1

/-- A host write of `w` to STATUS: writing 1 clears DONE, ERRS, OVR, every other bit is ignored (spec/10_state.md R25). -/
def State.clearStatus (s : State) (w : Word) : State :=
  { s with
    done := s.done && !w.getLsbD 1
    errs := s.errs && !w.getLsbD 8
    ovr := s.ovr && !w.getLsbD 9 }

/-- A host write of `w` to CTRL (spec/10_state.md R30). -/
def State.setCtrl (s : State) (w : Word) : State := { s with doneie := w.getLsbD 0, errie := w.getLsbD 1 }

/-- The interrupt output, level-sensitive, active high (spec/60_exceptions.md R114). -/
def State.irq (s : State) : Bool := (s.done && s.doneie) || ((s.errs || s.ovr) && s.errie)

/-- The result codes of STATUS.ERR (spec/60_exceptions.md R109). -/
def errOk : BitVec 4 := 0
def errLengthMismatch : BitVec 4 := 1
def errIllegalCommand : BitVec 4 := 2

end Sys2Proof.Machine
end

