-- ==== Sys2Proof/Machine/Operands.lean ====
section
/-! DEFINITION. Operands: how a command reads a buffer register or CNT (spec/00_scope.md R9, R10), with the free values of
spec/70_reset_and_hazards.md R130 and R133, and the mask convention (spec/41_bitwise.md R90). -/

namespace Sys2Proof.Machine

/-- Buffer register `r`, `x[r]` of spec/00_scope.md R9. -/
def State.buf (s : State) (r : Reg) : Buffer := s.v[r]

/-- The state with all of buffer register `r` replaced. -/
def State.setBuf (s : State) (r : Reg) (b : Buffer) : State := { s with v := s.v.set r.val b }

/-- `DATA[k]` of a buffer register (spec/10_state.md R16). -/
def Buffer.byte (b : Buffer) (k : Fin 16) : Byte := b.data[k]

/-- The written bit of `DATA[k]` (spec/10_state.md R45). -/
def Buffer.written (b : Buffer) (k : Fin 16) : Bool := b.wr[k]

/-- What a command reads of a buffer register: the pair `(x[i].len, x[i].data)` of spec/00_scope.md R9. -/
structure View where
  len  : Fin 17
  data : Vector Byte 16
  deriving DecidableEq, Repr

/-- `x[i].data[k]` as a command reads it. -/
def View.byte (x : View) (k : Fin 16) : Byte := x.data[k]

/-- The value of an operand: the byte sequence `DATA[0..LEN-1]` (spec/10_state.md R16). -/
def View.bytes (x : View) : List Byte := x.data.toList.take x.len.val

/-- The value of a buffer register (spec/10_state.md R16). -/
def Buffer.bytes (b : Buffer) : List Byte := b.data.toList.take b.len.val

/-- Every byte of the register's value has been written (spec/10_state.md R45, spec/70_reset_and_hazards.md R131). -/
def Buffer.ready (b : Buffer) : Bool := (List.finRange 16).all fun k => decide (b.len.val ≤ k.val) || b.written k

/-- The host wrote some buffer register while this command was pending (spec/70_reset_and_hazards.md R133). -/
def State.hazard (s : State) : Bool := s.hits.toList.any id

/-- The host wrote register `r` while this command was pending. -/
def State.hit (s : State) (r : Reg) : Bool := s.hits[r]

/-- What the completing command reads as its operand number `slot` (0: RS1, 1: RS2) from register `r`. A byte nothing has
written reads as a free byte (spec/40_command_execution.md R79). After a HostHazard the whole operand is free
(spec/93_implementation_defined.md). -/
def State.view (s : State) (slot : Nat) (r : Reg) : View :=
  { len := if s.hazard then Config.operandLen s.draws slot else (s.buf r).len
    data := Vector.ofFn fun k =>
      if s.hazard || !(s.buf r).written k then Config.operandByte s.draws slot k.val else (s.buf r).byte k }

/-- The command reads a byte below the operand's length whose written bit is false (spec/10_state.md R45). After a HostHazard
the length is the free one (log entry 17). -/
def State.readsUnwritten (s : State) (slot : Nat) (r : Reg) : Bool :=
  (List.finRange 16).any fun k => decide (k.val < (s.view slot r).len.val) && !(s.buf r).written k

/-- What the completing FCNT reads of CNT: a free value after a HostHazard (log entry 5). -/
def State.cntView (s : State) : BitVec 129 := if s.hazard then Config.operandCnt s.draws else s.cnt

/-- The integer view of a buffer value, byte 0 most significant (spec/00_scope.md R10). -/
def uint (bs : List Byte) : Nat := bs.foldl (fun acc b => acc * 256 + b.toNat) 0

/-- The 16-bit groups `G(g) = d[2g]·256 + d[2g+1]` of an even-length value (spec/43_encoder.md, spec/20_memory.md R51). -/
def groups : List Byte → List Nat
  | hi :: lo :: rest => (hi.toNat * 256 + lo.toNat) :: groups rest
  | [_] => []
  | [] => []

/-- Byte `k` of the mask of prefix length `p` (spec/41_bitwise.md R90). -/
def maskByte (p k : Nat) : Byte :=
  if 8 * k + 8 ≤ p then 0xFF
  else if p ≤ 8 * k then 0x00
  else BitVec.ofNat 8 (0xFF <<< (8 - (p - 8 * k)) &&& 0xFF)

/-- `mask(p, n)`: the value the host writes as the mask of prefix `p` for an `n`-byte address (spec/41_bitwise.md R90). -/
def mask (p n : Nat) : List Byte := (List.range n).map (maskByte p)

end Sys2Proof.Machine
end

