-- ==== Sys2Proof/Machine/Ops.lean ====
section
/-! DEFINITION. The shared operations on the state: noting an unwritten read, writing a buffer register, CNT and OUT,
completing a command (which is also how an error is raised), the HostHazard, acceptance, and the reset input. -/

namespace Sys2Proof.Machine

/-- A data vector from a function of the byte index. -/
def lanes (f : Fin 16 → Byte) : Vector Byte 16 := Vector.ofFn f

/-- Record the read of operand `slot` in register `r`: UnwrittenOperand when a byte read was never written
(spec/40_command_execution.md R79, spec/70_reset_and_hazards.md R130). -/
def State.noteRead (s : State) (slot : Nat) (r : Reg) : State :=
  { s with faults := { s.faults with unwrittenOperand := s.faults.unwrittenOperand || s.readsUnwritten slot r } }

/-- `x[d] <- (n, data)`: all of register `d`, and its 16 written bits (spec/00_scope.md R9, spec/10_state.md R45). If the host
wrote `d` while the command was pending, the register may end with either value: it is left free (R133, log entry 4). -/
def State.writeBuf (s : State) (d : Reg) (n : Fin 17) (data : Vector Byte 16) : State :=
  s.setBuf d
    { len := if s.hit d then Config.hazardLen s.draws else n
      data := if s.hit d then lanes fun k => Config.hazardByte s.draws k.val else data
      wr := Vector.replicate 16 true }

/-- `CNT <- v` (spec/00_scope.md R9). -/
def State.setCnt (s : State) (v : Nat) : State := { s with cnt := BitVec.ofNat 129 v }

/-- The characters of OUT for the string `str`: the string, then 0x00 up to OUTMAX (spec/00_scope.md R9). -/
def padOut (str : List Byte) : Vector Byte 143 := ⟨⟨(str ++ List.replicate 143 0).take 143⟩, by simp⟩

/-- `emit(str)`: OUTLEN, the characters, and zeros after them (spec/00_scope.md R9). No formatter writes more than OUTMAX
characters (spec/43_encoder.md R107), so nothing is cut off. -/
def State.emit (s : State) (str : List Byte) : State :=
  { s with
    outlen := ⟨min str.length 143, by omega⟩
    out := padOut str }

/-- Completion with result code `err`, and the one way an error is raised (spec/40_command_execution.md R79,
spec/60_exceptions.md R110, R118): ERR and DONE are written, ERRS is set on an error, and the command is no longer pending.
There is no trap: nothing else is saved and control goes nowhere. -/
def State.complete (s : State) (err : BitVec 4) : State :=
  { s with
    err := err
    done := true
    errs := s.errs || err != 0
    pend := none
    hits := Vector.replicate 8 false
    draws := s.draws + 1 }

/-- The engine step for an illegal word: ILLEGAL_COMMAND, nothing executed (spec/40_command_execution.md R79). -/
def State.completeIllegal (s : State) : State := s.complete errIllegalCommand

/-- Acceptance: a host write of `w` to CMD (spec/40_command_execution.md R78). An accepted command waits for a free number of
further steps (LAT, log entry 3). -/
def State.submit (s : State) (w : Word) : State :=
  if s.busy then { s with ovr := true }
  else { s with pend := some w, wait := Config.latency s.draws, draws := s.draws + 1 }

/-- A host write to register `i` while BUSY = 1 (spec/70_reset_and_hazards.md R133): HostHazard is recorded, the register
becomes free, and `hits` makes the pending command's operands free. `wr` is what the write leaves of the written bits
(log entry 16). -/
def State.hazardWrite (s : State) (i : Reg) (wr : Vector Bool 16) : State :=
  { s.setBuf i ⟨Config.hazardLen s.draws, lanes fun k => Config.hazardByte s.draws k.val, wr⟩ with
    faults := { s.faults with hostHazard := true }
    hits := s.hits.set i.val true
    draws := s.draws + 1 }

/-- A refused host access: it is recorded and has no effect, and a refused read returns nothing (spec/20_memory.md R53,
spec/70_reset_and_hazards.md R129, spec/93_implementation_defined.md). Log entry 10. -/
def State.refuseAccess (s : State) : State := { s with faults := { s.faults with hostAccessRefused := true } }

/-- A host read returns `w`. -/
def State.reply (s : State) (w : Word) : State := { s with reads := w :: s.reads }

/-- A host read of a result register while BUSY = 1 returns a free word (spec/70_reset_and_hazards.md R134). -/
def State.replyFree (s : State) : State :=
  { s with reads := Config.busyWord s.draws :: s.reads, draws := s.draws + 1 }

/-- The `rst` input is driven (spec/70_reset_and_hazards.md R127, R129): on assertion every piece of state takes its reset
value and a pending command is discarded; it stays so while `rst` is asserted. Log entry 8. -/
def State.driveRst (s : State) (level : Bool) : State :=
  if level then
    if s.rst then s
    else { State.resetAt (s.resets + 1) with rst := true, draws := s.draws, host := s.host, reads := s.reads }
  else { s with rst := false }

end Sys2Proof.Machine
end

