-- ==== Sys2Proof/Machine/Render.lean ====
section
/-! DEFINITION. The strings of the address encoder: the string functions of spec/00_scope.md R11 and the text each formatter
writes (spec/43_encoder.md R100 to R106), as lists of ASCII codes. -/

namespace Sys2Proof.Machine

/-- The characters of spec/00_scope.md R11 that are no digits. -/
def chDot : Byte := 0x2E
def chColon : Byte := 0x3A
def chSpace : Byte := 0x20

/-- The character of digit `d < 16`: '0'..'9' = 0x30.., 'a'..'f' = 0x61.. (spec/00_scope.md R11). -/
def digitChar (d : Nat) : Byte := if d < 10 then BitVec.ofNat 8 (0x30 + d) else BitVec.ofNat 8 (0x57 + d)

/-- The numeral of `v` in `base`, no leading zeros, "0" for 0. -/
def numeral (base v : Nat) : List Byte := if v = 0 then [0x30] else (Nat.digits base v).reverse.map digitChar

/-- `dec(v)` (spec/00_scope.md R11). -/
def dec (v : Nat) : List Byte := numeral 10 v

/-- `hexmin(v)` (spec/00_scope.md R11). -/
def hexmin (v : Nat) : List Byte := numeral 16 v

/-- `bin8(b)`: eight binary digits, most significant first (spec/00_scope.md R11). -/
def bin8 (b : Byte) : List Byte := [7, 6, 5, 4, 3, 2, 1, 0].map fun j => if b.getLsbD j then 0x31 else 0x30

/-- `hex4(v)`: four hexadecimal digits, zero-padded (spec/00_scope.md R11). -/
def hex4 (v : Nat) : List Byte := [v / 4096 % 16, v / 256 % 16, v / 16 % 16, v % 16].map digitChar

/-- `join(sep, parts)` with a separator of one character (spec/00_scope.md R11). -/
def join (sep : Byte) : List (List Byte) → List Byte
  | [] => []
  | [s] => s
  | s :: t :: rest => s ++ sep :: join sep (t :: rest)

/-- The string of FBIN (spec/43_encoder.md R100). -/
def textBin (d : List Byte) : List Byte := join chSpace (d.map bin8)

/-- The string of FDEC8 (spec/43_encoder.md R101). -/
def textDec8 (d : List Byte) : List Byte := join chDot (d.map fun b => dec b.toNat)

/-- The string of FDEC16: empty for an odd length (spec/43_encoder.md R102). -/
def textDec16 (d : List Byte) : List Byte :=
  if d.length % 2 = 1 then [] else join chDot ((groups d).map dec)

/-- The string of FHEX: empty unless the length is 16 (spec/43_encoder.md R103). -/
def textHex (d : List Byte) : List Byte :=
  if d.length ≠ 16 then [] else join chColon ((groups d).map hex4)

/-- The IPv4-mapped prefix: bytes 0..9 are 0x00 and bytes 10, 11 are 0xFF (spec/43_encoder.md R104). -/
def isV4Mapped (d : List Byte) : Bool := d.take 12 == [0, 0, 0, 0, 0, 0, 0, 0, 0, 0, 0xFF, 0xFF]

/-- The length of the run of zero groups at the head. -/
def zeroRun : List Nat → Nat
  | 0 :: gs => zeroRun gs + 1
  | _ => 0

/-- The first longest run of zero groups, as its start and length, from the groups `gs` at positions `i`, `i+1`, …, and the
best run `(bs, bl)` so far (spec/43_encoder.md R104). The loop of the spec goes on behind a run it has measured; looking at
the positions inside that run too changes nothing, for the rest of a run is shorter than the run (log entry 15). -/
def longestRun : (gs : List Nat) → (i : Nat) → (best : Nat × Nat) → Nat × Nat
  | [], _, best => best
  | g :: gs, i, best =>
    longestRun gs (i + 1) (if best.2 < zeroRun (g :: gs) then (i, zeroRun (g :: gs)) else best)

/-- Eight groups with their first longest zero run of at least two groups collapsed (spec/43_encoder.md R104). -/
def textGroups (g : List Nat) : List Byte :=
  let run := longestRun g 0 (0, 0)
  if run.2 < 2 then join chColon (g.map hexmin)
  else
    join chColon ((g.take run.1).map hexmin) ++ [chColon, chColon] ++
      join chColon ((g.drop (run.1 + run.2)).map hexmin)

/-- The string of FSHEX: empty unless the length is 16, dotted for an IPv4-mapped value (spec/43_encoder.md R104). -/
def textShex (d : List Byte) : List Byte :=
  if d.length ≠ 16 then []
  else if Config.v4MappedDotted && isV4Mapped d then textDec8 (d.drop 12)
  else textGroups (groups d)

/-- The string of FCNT (spec/43_encoder.md R106). -/
def textCnt (c : BitVec 129) : List Byte := dec c.toNat

end Sys2Proof.Machine
end

