-- ==== Sys2Proof/Machine/Bitwise.lean ====
section
/-! DEFINITION. The bitwise unit: AND, OR, NOT (spec/41_bitwise.md). -/

namespace Sys2Proof.Machine

/-- Lane-wise results below `n`, and 0x00 in lanes at and above it (spec/41_bitwise.md R88). -/
def resultLanes (n : Fin 17) (f : Fin 16 → Byte) : Vector Byte 16 :=
  lanes fun k => if k.val < n.val then f k else 0x00

/-- The shape of AND and OR: the length check comes before any data byte is read, and a mismatch writes only STATUS
(spec/41_bitwise.md R85, R86, spec/40_command_execution.md R80, spec/60_exceptions.md R116). -/
def State.bitwise2 (s : State) (f : Byte → Byte → Byte) (d a b : Reg) : State :=
  let x := s.view 0 a
  let y := s.view 1 b
  if x.len ≠ y.len then s.complete errLengthMismatch
  else
    ((((s.noteRead 0 a).noteRead 1 b).writeBuf d x.len
      (resultLanes x.len fun k => f (x.byte k) (y.byte k))).complete errOk)

/-- `AND vD, vA, vB` (spec/41_bitwise.md R85). -/
def execAnd (d a b : Reg) (s : State) : Host.Outcome State Fault Refusal :=
  .next (s.bitwise2 (fun x y => x &&& y) d a b)

/-- `OR vD, vA, vB` (spec/41_bitwise.md R86). -/
def execOr (d a b : Reg) (s : State) : Host.Outcome State Fault Refusal :=
  .next (s.bitwise2 (fun x y => x ||| y) d a b)

/-- `NOT vD, vA`: each byte of the value XOR 0xFF (spec/41_bitwise.md R87). -/
def execNot (d a : Reg) (s : State) : Host.Outcome State Fault Refusal :=
  let x := s.view 0 a
  .next (((s.noteRead 0 a).writeBuf d x.len (resultLanes x.len fun k => x.byte k ^^^ 0xFF)).complete errOk)

end Sys2Proof.Machine
end

