-- ==== Sys2Proof/Machine/Cardinality.lean ====
section
/-! DEFINITION. The cardinality unit: CARD (spec/42_cardinality.md). -/

namespace Sys2Proof.Machine

/-- `|a − b| + 1`: compare, subtract the smaller from the larger, add 1 (spec/42_cardinality.md R92). -/
def inclusiveCount (a b : Nat) : Nat := (if b ≤ a then a - b else b - a) + 1

/-- `CARD vA, vB`: no length check (spec/42_cardinality.md R92, R94). -/
def execCard (a b : Reg) (s : State) : Host.Outcome State Fault Refusal :=
  .next ((((s.noteRead 0 a).noteRead 1 b).setCnt
    (inclusiveCount (uint (s.view 0 a).bytes) (uint (s.view 1 b).bytes))).complete errOk)

end Sys2Proof.Machine
end

