-- ==== Sys2Proof/Machine/Encoder.lean ====
section
/-! DEFINITION. The address encoder: FBIN, FDEC8, FDEC16, FHEX, FSHEX, FCNT (spec/43_encoder.md). -/

namespace Sys2Proof.Machine

/-- A formatter of a buffer register: read the operand, write its string, complete with ERR = 0 whatever the length
(spec/43_encoder.md R99). -/
def State.format (s : State) (text : List Byte → List Byte) (a : Reg) : State :=
  (((s.noteRead 0 a).emit (text (s.view 0 a).bytes)).complete errOk)

/-- A formatter that reads data bytes only when the operand's length is one it renders: other lengths emit "" and read no
data byte (spec/43_encoder.md R102, R103, R104, spec/40_command_execution.md R79). Log entry 14. -/
def State.formatIf (s : State) (renders : Nat → Bool) (text : List Byte → List Byte) (a : Reg) : State :=
  if renders (s.view 0 a).len.val then s.format text a else ((s.emit []).complete errOk)

/-- `FBIN vA` (spec/43_encoder.md R100). -/
def execFbin (a : Reg) (s : State) : Host.Outcome State Fault Refusal := .next (s.format textBin a)

/-- `FDEC8 vA` (spec/43_encoder.md R101). -/
def execFdec8 (a : Reg) (s : State) : Host.Outcome State Fault Refusal := .next (s.format textDec8 a)

/-- `FDEC16 vA` (spec/43_encoder.md R102). -/
def execFdec16 (a : Reg) (s : State) : Host.Outcome State Fault Refusal :=
  .next (s.formatIf (fun n => n % 2 == 0) textDec16 a)

/-- `FHEX vA` (spec/43_encoder.md R103). -/
def execFhex (a : Reg) (s : State) : Host.Outcome State Fault Refusal :=
  .next (s.formatIf (fun n => n == 16) textHex a)

/-- `FSHEX vA` (spec/43_encoder.md R104). -/
def execFshex (a : Reg) (s : State) : Host.Outcome State Fault Refusal :=
  .next (s.formatIf (fun n => n == 16) textShex a)

/-- `FCNT` (spec/43_encoder.md R106). -/
def execFcnt (s : State) : Host.Outcome State Fault Refusal := .next ((s.emit (textCnt s.cntView)).complete errOk)

end Sys2Proof.Machine
end

