-- ==== Sys2Proof/Machine/System.lean ====
section
/-! DEFINITION. NOP (spec/40_command_execution.md R81). Each meaning in this and the following files is the engine step of
R79 for its command: execute, then the STATUS writes and the end of the pending command. -/

namespace Sys2Proof.Machine

/-- NOP reads and writes nothing and completes with ERR = 0 (spec/40_command_execution.md R81). -/
def execNop (s : State) : Host.Outcome State Fault Refusal := .next (s.complete errOk)

end Sys2Proof.Machine
end

