-- ==== Sys2Proof/Machine/Dispatch.lean ====
section
/-! DEFINITION. One arm per command (spec/00_scope.md R3): the engine step of spec/40_command_execution.md R79. -/

namespace Sys2Proof.Machine

def exec (i : Instr) (s : State) : Host.Outcome State Fault Refusal :=
  match i with
  | .nop => Sys2Proof.Machine.execNop s
  | .and d a b => Sys2Proof.Machine.execAnd d a b s
  | .or d a b => Sys2Proof.Machine.execOr d a b s
  | .not d a => Sys2Proof.Machine.execNot d a s
  | .card a b => Sys2Proof.Machine.execCard a b s
  | .fbin a => Sys2Proof.Machine.execFbin a s
  | .fdec8 a => Sys2Proof.Machine.execFdec8 a s
  | .fdec16 a => Sys2Proof.Machine.execFdec16 a s
  | .fhex a => Sys2Proof.Machine.execFhex a s
  | .fshex a => Sys2Proof.Machine.execFshex a s
  | .fcnt => Sys2Proof.Machine.execFcnt s

end Sys2Proof.Machine
end

