-- ==== Sys2Proof/Machine/HostPort.lean ====
section
/-! DEFINITION. The host register port: the register map (spec/10_state.md R24), reads and writes of it (R29 to R39,
spec/20_memory.md R50 to R58), and what one host event does. -/

namespace Sys2Proof.Machine

/-- A register of the window, or a reserved offset (spec/10_state.md R24). -/
inductive HostReg where
  | id | cmd | status | ctrl | outlen | param
  | cnt (j : Fin 5)
  | len (i : Reg)
  | data (i : Reg) (j : Fin 4)
  | out (j : Fin 36)
  | reserved
  deriving DecidableEq, Repr

/-- The register at a word-aligned offset of the window (spec/10_state.md R24). -/
def regAt (off : Nat) : HostReg :=
  if off = 0x000 then .id
  else if off = 0x004 then .cmd
  else if off = 0x008 then .status
  else if off = 0x00C then .ctrl
  else if off = 0x010 then .outlen
  else if off = 0x014 then .param
  else if off < 0x020 then .reserved
  else if h : off < 0x034 then .cnt ⟨(off - 0x020) / 4, by omega⟩
  else if off < 0x100 then .reserved
  else if h : off < 0x200 then
    if off % 0x20 = 0 then .len ⟨(off - 0x100) / 0x20, by omega⟩
    else if off % 0x20 < 0x10 then .reserved
    else .data ⟨(off - 0x100) / 0x20, by omega⟩ ⟨(off % 0x20 - 0x10) / 4, by omega⟩
  else if h : off < 0x290 then .out ⟨(off - 0x200) / 4, by omega⟩
  else .reserved

/-- The results and operands a host read must not race with a pending command for: `Vi`, `CNT`, `OUT`, `OUTLEN`
(spec/70_reset_and_hazards.md R134). -/
def HostReg.isResult : HostReg → Bool
  | .outlen | .cnt _ | .len _ | .data _ _ | .out _ => true
  | .id | .cmd | .status | .ctrl | .param | .reserved => false

/-- The constant of ID (spec/10_state.md R33). -/
def idWord : Word := 0x51530007

/-- The constant of PARAM (spec/10_state.md R34). -/
def paramWord : Word := 0x008F0810

/-- Four bytes as a host word, the lowest-numbered in bits 31:24 (spec/20_memory.md R52). -/
def packWord (b : Fin 4 → Byte) : Word := b 0 ++ b 1 ++ b 2 ++ b 3

/-- Byte `k < 4` of a host word, byte 0 in bits 31:24 (spec/20_memory.md R52). -/
def unpackByte (w : Word) (k : Nat) : Byte := w.extractLsb' (24 - 8 * k) 8

/-- Character `k` of OUT as the host reads it; `OUT[143]` does not exist and reads 0 (spec/10_state.md R39). -/
def State.outChar (s : State) (k : Nat) : Byte := s.out.toList.getD k 0

/-- The number of the byte that is byte `c` of word `j` of DATA (spec/10_state.md R38). -/
def byteAt (j c : Fin 4) : Fin 16 := ⟨4 * j.val + c.val, by omega⟩

/-- What a register reads as when the read is defined (spec/10_state.md R24, R29 to R39). -/
def State.readReg (s : State) : HostReg → Word
  | .id => idWord
  | .cmd => 0
  | .status => s.statusWord
  | .ctrl => s.ctrlWord
  | .outlen => BitVec.ofNat 32 s.outlen.val
  | .param => paramWord
  | .cnt j => s.cnt.extractLsb' (32 * j.val) 32
  | .len i => BitVec.ofNat 32 (s.buf i).len.val
  | .data i j => packWord fun c => (s.buf i).byte (byteAt j c)
  | .out j => packWord fun c => s.outChar (4 * j.val + c.val)
  | .reserved => 0

/-- A 32-bit aligned host read (spec/20_memory.md R56, spec/70_reset_and_hazards.md R134). -/
def State.hostRead (s : State) (r : HostReg) : State :=
  if s.busy && r.isResult then s.replyFree else s.reply (s.readReg r)

/-- A host write of `Vi.LEN` (spec/10_state.md R37). -/
def State.writeLen (s : State) (i : Reg) (w : Word) : State :=
  if h : w.toNat ≤ 16 then s.setBuf i { s.buf i with len := ⟨w.toNat, by omega⟩ } else s

/-- The written bits with those of bytes `4j..4j+3` set (spec/10_state.md R45). -/
def Buffer.wrWithWord (b : Buffer) (j : Fin 4) : Vector Bool 16 :=
  Vector.ofFn fun k => decide (k.val / 4 = j.val) || b.written k

/-- A host write of `Vi.DATAj` (spec/10_state.md R38, R45). -/
def State.writeData (s : State) (i : Reg) (j : Fin 4) (w : Word) : State :=
  s.setBuf i
    { len := (s.buf i).len
      data := lanes fun k => if k.val / 4 = j.val then unpackByte w (k.val % 4) else (s.buf i).byte k
      wr := (s.buf i).wrWithWord j }

/-- A 32-bit aligned host write (spec/20_memory.md R56, spec/70_reset_and_hazards.md R133, R135). Read-only registers and
reserved offsets ignore it (spec/10_state.md R35, R36). -/
def State.hostWrite (s : State) (r : HostReg) (w : Word) : State :=
  match r with
  | .cmd => s.submit w
  | .status => s.clearStatus w
  | .ctrl => s.setCtrl w
  | .len i => if s.busy then s.hazardWrite i (s.buf i).wr else s.writeLen i w
  | .data i j => if s.busy then s.hazardWrite i ((s.buf i).wrWithWord j) else s.writeData i j w
  | .id | .outlen | .param | .cnt _ | .out _ | .reserved => s

/-- The offset of a bus address that reaches QSAB when its 4 KiB window sits at `base` (spec/20_memory.md R54). -/
def windowOffset (base a : Nat) : Option Nat :=
  if base ≤ a ∧ a < base + 0x1000 then some (a - base) else none

/-- The offset in the window at which an access arrives, none where it does not reach QSAB. -/
def Place.offset? : Place → Option Nat
  | .offset o => windowOffset 0 o
  | .bus a => windowOffset Config.blockBase a

/-- An access QSAB defines: 32 bits wide, at a multiple of 4, with `rst` not asserted (spec/20_memory.md R53,
spec/70_reset_and_hazards.md R129). -/
def State.accessDefined (s : State) (width : Width) (off : Nat) : Bool :=
  !s.rst && width == .bits32 && off % 4 == 0

/-- One host access. What the platform does with an access outside the window is outside QSAB (spec/20_memory.md R54): its
state is unchanged (log entry 12). -/
def State.hostAccess (s : State) (a : Access) : State :=
  match a.place.offset? with
  | none => s
  | some off =>
    if s.accessDefined a.width off then
      match a.kind with
      | .read => s.hostRead (regAt off)
      | .write w => s.hostWrite (regAt off) w
    else s.refuseAccess

/-- One host event. `poll` reads STATUS and stays at the head of the queue while BUSY = 1 (spec/00_scope.md R13,
log entry 13). -/
def State.hostEvent (s : State) (e : HostEvent) : State :=
  match e with
  | .access a => s.hostAccess a
  | .poll =>
    let t := s.hostAccess ⟨.offset 0x008, .bits32, .read⟩
    if s.busy then { t with host := .poll :: t.host } else t
  | .rst level => s.driveRst level

/-- A step of the host: its next event happens, and a pending command has waited one step longer. With no event left the
host does nothing and time passes (log entry 3). -/
def State.hostStep (s : State) : State :=
  match s.host with
  | [] => { s with wait := s.wait - 1 }
  | e :: rest => State.hostEvent { s with host := rest, wait := s.wait - 1 } e

end Sys2Proof.Machine
end

