-- ==== Sys2Proof/Machine/Engine.lean ====
section
/-! DEFINITION. The command engine (spec/40_command_execution.md R77, R79) and how a command word is placed for it. -/

namespace Sys2Proof.Machine

/-- The engine step for the accepted word `w`: decode, then execute, or complete with ILLEGAL_COMMAND
(spec/40_command_execution.md R79). -/
def engineStep (w : Word) (s : State) : Host.Outcome State Fault Refusal :=
  match decode w with
  | .instr i => exec i s
  | .illegal _ => .next s.completeIllegal

/-- The word the engine completes in the next step: the pending command, when it has waited long enough (LAT) and `rst` is
not asserted (spec/40_command_execution.md R77, spec/70_reset_and_hazards.md R129). -/
def State.readyWord (s : State) : Option Word := if s.rst = false ∧ s.wait = 0 then s.pend else none

/-- The word `w` accepted and due in the very next step. -/
def State.placeCommand (s : State) (w : Word) : State := { s with pend := some w, wait := 0, rst := false }

end Sys2Proof.Machine
end

