-- ==== Sys2Proof/Machine/Step.lean ====
section
/-! DEFINITION. One step of the machine: the engine completes its command when it is due, and otherwise the host acts
(spec/40_command_execution.md R77). -/

namespace Sys2Proof.Machine

/-- One step. Which agent moves is in the state: `wait` says how many host steps come before the completion. -/
def step (s : State) : Host.Outcome State Fault Refusal :=
  match s.readyWord with
  | some w => engineStep w s
  | none => .next s.hostStep

/-- `s` with the instruction whose bits are `w` accepted and due: QSAB fetches nothing (spec/10_state.md R21), and the next
step completes the pending command (log entry 9). -/
def State.withFetchWord (s : State) (nbits w : Nat) : State := s.placeCommand (BitVec.ofNat 32 (w % 2 ^ nbits))

end Sys2Proof.Machine
end

