-- ==== Sys2Proof/Safety.lean ====
section
/-! DEFINITION. What a good state is (spec/10_state.md R46), what the host owes (spec/70_reset_and_hazards.md R131, R132), the
invariant of the machine, and the predicates that claims are written with. -/

namespace Sys2Proof.Machine

/-- No model fault and no refusal was recorded (spec/10_state.md R46). -/
def State.good (s : State) : Prop := s.faults = FaultSet.empty

/-- The characters of spec/00_scope.md R11. -/
def isOutputChar (c : Byte) : Bool :=
  (0x30 ≤ c.toNat && c.toNat ≤ 0x39) || (0x61 ≤ c.toNat && c.toNat ≤ 0x66) || c == 0x2E || c == 0x3A || c == 0x20

/-- Everything but the model's own bookkeeping and the recorded faults is at its reset value (spec/10_state.md R48). DATA is
unspecified there, so only the written bits are said. -/
structure State.AtReset (s : State) : Prop where
  len    : ∀ i : Reg, (s.buf i).len = 0
  wr     : ∀ (i : Reg) (k : Fin 16), (s.buf i).written k = false
  cnt    : s.cnt = 0
  out    : ∀ k : Fin 143, s.out[k] = 0
  outlen : s.outlen = 0
  pend   : s.pend = none
  status : s.statusWord = 0
  ctrl   : s.ctrlWord = 0
  irq    : s.irq = false

/-- The invariant of the machine. -/
structure State.Inv (s : State) : Prop where
  /-- No completion writes an ERR value other than 0, 1 or 2 (spec/60_exceptions.md R110). -/
  err    : s.err.toNat ≤ 2
  /-- CNT never passes 2^128 (spec/42_cardinality.md R93). -/
  cnt    : s.cnt.toNat ≤ 2 ^ 128
  /-- Characters at positions at and above OUTLEN read 0 (spec/10_state.md R39). -/
  tail   : ∀ k : Fin 143, s.outlen.val ≤ k.val → s.out[k] = 0
  /-- Characters below OUTLEN are characters of spec/00_scope.md R11. -/
  chars  : ∀ k : Fin 143, k.val < s.outlen.val → isOutputChar s.out[k] = true
  /-- An idle engine waits for nothing and has no hazard of its own (model bookkeeping). -/
  idle   : s.pend = none → s.wait = 0 ∧ s.hazard = false
  /-- A hazard of the pending command is recorded (spec/70_reset_and_hazards.md R133). -/
  hazard : s.hazard = true → s.faults.hostHazard = true
  /-- While `rst` is asserted every piece of state is at its reset value (spec/70_reset_and_hazards.md R127). -/
  rst    : s.rst = true → s.AtReset

/-- What no command ever writes: OVR, CTRL, the `rst` input, the wait of the engine, the host's queue and what it has read. -/
structure State.SameControl (s t : State) : Prop where
  ovr    : t.ovr = s.ovr
  doneie : t.doneie = s.doneie
  errie  : t.errie = s.errie
  rst    : t.rst = s.rst
  wait   : t.wait = s.wait
  resets : t.resets = s.resets
  host   : t.host = s.host
  reads  : t.reads = s.reads

/-- The data registers are unchanged. -/
structure State.SameData (s t : State) : Prop where
  v      : t.v = s.v
  cnt    : t.cnt = s.cnt
  out    : t.out = s.out
  outlen : t.outlen = s.outlen

/-- STATUS but for BUSY is unchanged, and so is CTRL. -/
structure State.SameFlags (s t : State) : Prop where
  done   : t.done = s.done
  errs   : t.errs = s.errs
  ovr    : t.ovr = s.ovr
  err    : t.err = s.err
  doneie : t.doneie = s.doneie
  errie  : t.errie = s.errie

/-- The completion of spec/40_command_execution.md R79 with result code `e`. -/
structure State.Completed (s t : State) (e : BitVec 4) : Prop where
  err  : t.err = e
  done : t.done = true
  errs : t.errs = (s.errs || e != 0)
  pend : t.pend = none

/-- OUT and OUTLEN hold the string `str`, with 0x00 after it (`emit`, spec/00_scope.md R9). -/
structure State.Emitted (t : State) (str : List Byte) : Prop where
  outlen : t.outlen.val = str.length
  chars  : ∀ k : Fin 143, t.out[k] = str.getD k.val 0

/-- It is the host's turn: no command is due and `e` is its next event. -/
def State.HostTurn (s : State) (e : HostEvent) (rest : List HostEvent) : Prop := s.readyWord = none ∧ s.host = e :: rest

/-- Group `g` of a value, `G(g) = d[2g]·256 + d[2g+1]` (spec/43_encoder.md). -/
def groupAt (d : List Byte) (g : Nat) : Nat := (d.getD (2 * g) 0).toNat * 256 + (d.getD (2 * g + 1) 0).toNat

/-- The `n` groups from group `i` on are all zero. -/
def ZeroGroups (d : List Byte) (i n : Nat) : Prop := ∀ k, i ≤ k → k < i + n → groupAt d k = 0

/-- The digit a character stands for (spec/00_scope.md R11). -/
def charValue (c : Byte) : Nat := if c.toNat ≤ 0x39 then c.toNat - 0x30 else c.toNat - 0x57

/-- `str` is the numeral of `v` in `base`: digits of the base only, of value `v`, no leading zero but for "0" itself. -/
structure IsNumeral (base v : Nat) (str : List Byte) : Prop where
  digits  : ∀ c ∈ str, charValue c < base ∧ ((0x30 ≤ c.toNat ∧ c.toNat ≤ 0x39) ∨ (0x61 ≤ c.toNat ∧ c.toNat ≤ 0x66))
  value   : str.foldl (fun acc c => acc * base + charValue c) 0 = v
  nonempty : str ≠ []
  leading : str.head? = some 0x30 → v = 0 ∧ str = [0x30]

/-- Run the commands of a list one after another, each accepted when the one before has completed. -/
def runCommands : List Instr → State → Host.Outcome State Fault Refusal
  | [], s => .next s
  | i :: rest, s =>
    match exec i s with
    | .next t => runCommands rest t
    | .fault r => .fault r
    | .refused r => .refused r

end Sys2Proof.Machine

namespace Sys2Proof

open Sys2Proof.Machine

/-- The registers of which the command reads data bytes in `s`: none when a length check or a length it does not render ends
it first (spec/60_exceptions.md R116, spec/43_encoder.md R102 to R104). -/
def Instr.dataOperands (s : Machine.State) : Instr → List Reg
  | .nop | .fcnt => []
  | .and _ a b | .or _ a b => if (s.buf a).len = (s.buf b).len then [a, b] else []
  | .card a b => [a, b]
  | .not _ a | .fbin a | .fdec8 a => [a]
  | .fdec16 a => if (s.buf a).len.val % 2 = 0 then [a] else []
  | .fhex a | .fshex a => if (s.buf a).len.val = 16 then [a] else []

/-- The destination buffer register of a command (spec/30_encoding.md R70). -/
def Instr.dest? : Instr → Option Reg
  | .and d _ _ | .or d _ _ | .not d _ => some d
  | .nop | .card _ _ | .fbin _ | .fdec8 _ | .fdec16 _ | .fhex _ | .fshex _ | .fcnt => none

/-- The formatter commands (spec/43_encoder.md). -/
def Instr.isFormatter : Instr → Bool
  | .fbin _ | .fdec8 _ | .fdec16 _ | .fhex _ | .fshex _ | .fcnt => true
  | .nop | .and _ _ _ | .or _ _ _ | .not _ _ | .card _ _ => false

/-- The largest OUTLEN of each formatter (spec/43_encoder.md R107). -/
def Instr.maxOut : Instr → Nat
  | .fbin _ => 143
  | .fdec8 _ => 63
  | .fdec16 _ => 47
  | .fhex _ | .fshex _ | .fcnt => 39
  | .nop | .and _ _ _ | .or _ _ _ | .not _ _ | .card _ _ => 0

end Sys2Proof
end

