-- ==== Sys2Proof/Certificates/Slice0/Obligations.lean ====
section
/-! DEFINITION. The statements for the provers. Each docstring names the rules of spec/ it formalises. The predicates they
are written with stand in Sys2Proof/Safety.lean. `draws` (the number of the next free value), `hits` and `wait` are the
model's own bookkeeping. -/

open Sys2Proof Sys2Proof.Machine

/-! ### Reset -/

/-- spec/10_state.md R48: every register the rule gives a value has it after reset. The rule leaves DATA unspecified, and
nothing is said of it here. -/
def Obligations.ResetLeavesSpecifiedState : Prop :=
  State.reset.AtReset ∧ State.reset.faults = FaultSet.empty ∧ State.reset.done = false ∧ State.reset.err = 0 ∧
    State.reset.errs = false ∧ State.reset.ovr = false ∧ State.reset.doneie = false ∧ State.reset.errie = false ∧
    State.reset.readReg .id = 0x51530007 ∧ State.reset.readReg .param = 0x008F0810

/-- The invariant holds at reset (spec/10_state.md R48; the model's bookkeeping clauses are the model's). -/
def Obligations.ResetMeetsInvariant : Prop := State.reset.Inv

/-- Every step keeps the invariant: ERR is 0, 1 or 2 (R110), CNT never passes 2^128 (R93), OUT holds characters up to OUTLEN and
zeros from there (R9, R11, R39), the state stays at its reset value while `rst` is asserted (R127), and the bookkeeping of
hazards is sound. -/
def Obligations.StepKeepsInvariant : Prop := ∀ s t : State, s.Inv → step s = .next t → t.Inv

/-- Asserting `rst` from any state, a command pending or not: the command is discarded, and every piece of state takes its reset
value; when `rst` is released, every piece of state still has it, in every state the invariant admits
(spec/70_reset_and_hazards.md R127, R129). That a recorded model fault goes with it is the model's reading (log 8). -/
def Obligations.RstResets : Prop :=
  (∀ (s : State) (rest : List HostEvent), s.HostTurn (.rst true) rest → s.rst = false →
    ∃ t, step s = .next t ∧ t.AtReset ∧ t.rst = true ∧ t.faults = FaultSet.empty ∧ t.host = rest ∧ t.reads = s.reads) ∧
  ∀ (s : State) (rest : List HostEvent), s.Inv → s.rst = true → s.HostTurn (.rst false) rest →
    ∃ t, step s = .next t ∧ t.AtReset ∧ t.rst = false ∧ t.host = rest ∧ t.reads = s.reads

/-- While `rst` is asserted a host access of any kind is refused: it is recorded and nothing else changes, nor does it return
anything (spec/70_reset_and_hazards.md R129, spec/93_implementation_defined.md). That it returns nothing and the machine goes on is
the model's reading (log 10, DEDUCED). -/
def Obligations.AccessDuringRstRefused : Prop :=
  ∀ (s : State) (off : Nat) (width : Width) (kind : AccessKind) (rest : List HostEvent), s.Inv → s.rst = true →
    off < 0x1000 → s.host = .access ⟨.offset off, width, kind⟩ :: rest →
    ∃ t, step s = .next t ∧ t.faults = { s.faults with hostAccessRefused := true } ∧ t.rst = true ∧ t.pend = none ∧
      s.SameData t ∧ s.SameFlags t ∧ t.host = rest ∧ t.reads = s.reads

/-! ### Encoding -/

/-- The decoder gives every command back from its word, with every operand, and no two words decode to one command
(spec/30_encoding.md R72, R75). -/
def Obligations.DecodeEncodeRoundTrip : Prop :=
  (∀ i : Instr, i.wellFormed = true → decode (encode i) = .instr i) ∧
    ∀ (w : Word) (i : Instr), decode w = .instr i → i.wellFormed = true ∧ encode i = w

/-- The decoder agrees with the match and mask table on every word (spec/30_encoding.md R71, R72). -/
def Obligations.DecodeAgreesWithMatchTable : Prop :=
  ∀ w : Word, (∀ r ∈ rows, r.matches w = true ↔ ∃ i, decode w = .instr i ∧ i.raw.op = r.op) ∧
    ∀ i, decode w = .instr i → ∃ r ∈ rows, r.matches w = true

/-- The illegal words are those R73 lists and no other; an accepted one completes with ERR = 2 and changes nothing else but
STATUS; of the 2^32 words 1194 are legal, in the numbers per mnemonic R73 gives (spec/30_encoding.md R73). -/
def Obligations.IllegalWordsAreThoseListed : Prop :=
  (∀ w : Word, (∃ why, decode w = .illegal why) ↔
    fieldRsv w ≠ 0 ∨ (∀ op : Op, fieldOp w ≠ op.code) ∨
      ∃ op : Op, fieldOp w = op.code ∧
        (fieldOk op.usesRd (fieldRd w) && fieldOk op.usesRs1 (fieldRs1 w) && fieldOk op.usesRs2 (fieldRs2 w)) = false) ∧
  (∀ (w : Word) (why : Illegal) (s : State), decode w = .illegal why →
    ∃ t, engineStep w s = .next t ∧ s.Completed t 2 ∧ s.SameData t ∧ s.SameControl t ∧ t.faults = s.faults) ∧
  ∃ legal : List Word, legal.Nodup ∧ legal.length = 1194 ∧ (∀ w, w ∈ legal ↔ ∃ i, decode w = .instr i) ∧
    ∀ p ∈ [(Op.nop, 1), (Op.and, 512), (Op.or, 512), (Op.not, 64), (Op.card, 64), (Op.fbin, 8), (Op.fdec8, 8), (Op.fdec16, 8),
        (Op.fhex, 8), (Op.fshex, 8), (Op.fcnt, 1)],
      (legal.filter fun w => (decode w).instr?.map (·.raw.op) = some p.1).length = p.2

/-- A few words of spec/95_test_vectors.md 2.1, one for each unit. -/
def Obligations.SampleWordsDecode : Prop :=
  decode 0x00000000 = .instr .nop ∧ decode 0x01000201 = .instr (.and 2 0 1) ∧ decode 0x02000777 = .instr (.or 7 7 7) ∧
    decode 0x03000700 = .instr (.not 7 0) ∧ decode 0x10000077 = .instr (.card 7 7) ∧
    decode 0x24000070 = .instr (.fshex 7) ∧ decode 0x28000000 = .instr .fcnt

/-! ### The cycle -/

/-- When a command is due, the step is the completion of the decoded command: `exec` of it, or ERR = 2 for an illegal word;
otherwise the host acts. QSAB has no program counter, so nothing is added around `exec` (spec/40_command_execution.md R77, R79,
spec/10_state.md R21). R77 lets the engine step after any number of host steps: that it moves exactly when `wait` is 0, and the
host at every other step, is the model's DESIGN CHOICE of log 3, and the clause on `withFetchWord` rests on that of log 9. -/
def Obligations.StepCompletesDueCommand : Prop :=
  (∀ (s : State) (w : Word), s.pend = some w → s.wait = 0 → s.rst = false →
    (∀ i, decode w = .instr i → step s = exec i s) ∧
      ∀ why, decode w = .illegal why →
        ∃ t, step s = .next t ∧ s.Completed t 2 ∧ s.SameData t ∧ s.SameControl t ∧ t.faults = s.faults) ∧
  (∀ s : State, s.pend = none ∨ s.wait ≠ 0 ∨ s.rst = true → step s = .next s.hostStep) ∧
  ∀ (s : State) (w : Nat) (i : Instr), w < 2 ^ 32 → decode (BitVec.ofNat 32 w) = .instr i →
    step (s.withFetchWord 32 w) = exec i (s.withFetchWord 32 w)

/-- A host write to CMD (spec/40_command_execution.md R78): an idle engine accepts the word, a busy one sets OVR and discards it,
and nothing else changes. -/
def Obligations.CmdWriteSubmits : Prop :=
  ∀ (s : State) (w : Word) (rest : List HostEvent), s.HostTurn (.W 0x004 w) rest → s.rst = false →
    ∃ t, step s = .next t ∧ s.SameData t ∧ t.faults = s.faults ∧ t.reads = s.reads ∧ t.host = rest ∧
      t.done = s.done ∧ t.err = s.err ∧ t.errs = s.errs ∧ t.doneie = s.doneie ∧ t.errie = s.errie ∧ t.rst = s.rst ∧
      (s.pend = none → t.pend = some w ∧ t.ovr = s.ovr) ∧ (s.pend ≠ none → t.pend = s.pend ∧ t.ovr = true)

/-- Every accepted command completes: BUSY stays 1 for the `wait` steps of its LAT, whatever the host does but for a reset, and
the next step completes the command (spec/70_reset_and_hazards.md R137, spec/10_state.md R26). That LAT is a free number of
steps, counted down by `wait`, is the model's DESIGN CHOICE of log 3. -/
def Obligations.PendingCommandCompletes : Prop :=
  ∀ s : State, s.pend ≠ none → s.rst = false → (∀ e ∈ s.host, e ≠ .rst true) →
    (∀ n, n ≤ s.wait → ∃ t, Host.Core.run core n s = .next t ∧ t.pend = s.pend) ∧
      ∃ t, Host.Core.run core (s.wait + 1) s = .next t ∧ t.pend = none ∧ t.done = true

/-- An idle QSAB that the host leaves alone changes no state (spec/60_exceptions.md R126). -/
def Obligations.IdleChangesNothing : Prop :=
  ∀ s : State, s.pend = none → s.host = [] →
    ∃ t, step s = .next t ∧ s.SameData t ∧ s.SameFlags t ∧ t.pend = none ∧ t.rst = s.rst ∧ t.faults = s.faults ∧
      t.host = [] ∧ t.reads = s.reads

/-- No step stops the machine. After an error it goes on (spec/60_exceptions.md R113), and a hazard is a member of the fault set
(spec/10_state.md R46). R113 does not speak of a refused access, and spec/93_implementation_defined.md words its treatment 'the
model does not take the step' and says that the access is recorded and has no effect: that such a step ends in a next state and
the machine goes on is the model's reading (log 10, DEDUCED). -/
def Obligations.NoStepStops : Prop := (∀ s : State, ∃ t, step s = .next t) ∧ ∀ (i : Instr) (s : State), ∃ t, exec i s = .next t

/-- The effect of a pending command is as if at one instant: until it is due, no step changes the pending command, CNT, OUT or
OUTLEN, and a buffer register only through a recorded HostHazard (spec/20_memory.md R59, spec/60_exceptions.md R111). -/
def Obligations.OperandsHoldUntilCompletion : Prop :=
  ∀ (s t : State) (w : Word), s.pend = some w → s.readyWord = none → (∀ rest, s.host ≠ .rst true :: rest) →
    step s = .next t →
    t.pend = some w ∧ t.cnt = s.cnt ∧ t.out = s.out ∧ t.outlen = s.outlen ∧ (t.v = s.v ∨ t.faults.hostHazard = true)

/-! ### Results -/

/-- NOP (spec/40_command_execution.md R81): ERR = 0, DONE = 1, nothing else. -/
def Obligations.NopWritesOnlyStatus : Prop :=
  ∀ s : State, ∃ t, exec .nop s = .next t ∧ s.Completed t 0 ∧ s.SameData t ∧ s.SameControl t ∧ t.faults = s.faults

/-- AND (spec/41_bitwise.md R85, R88, spec/10_state.md R20, R45): on operands of equal length the destination takes the length, the
conjunction of every pair of written bytes below it, 0x00 above it and all written bits; a byte of which an operand was never
written is free (log 2). Nothing else but STATUS and the fault set changes. -/
def Obligations.AndResult : Prop :=
  ∀ (s : State) (d a b : Reg), s.hazard = false → (s.buf a).len = (s.buf b).len →
    ∃ t, exec (.and d a b) s = .next t ∧ s.Completed t 0 ∧ s.SameControl t ∧
      (t.buf d).len = (s.buf a).len ∧
      (∀ k : Fin 16, k.val < (s.buf a).len.val → (s.buf a).written k = true → (s.buf b).written k = true →
        (t.buf d).byte k = (s.buf a).byte k &&& (s.buf b).byte k) ∧
      (∀ k : Fin 16, (s.buf a).len.val ≤ k.val → (t.buf d).byte k = 0x00) ∧ (∀ k : Fin 16, (t.buf d).written k = true) ∧
      (∀ r : Reg, r ≠ d → (t.buf r) = (s.buf r)) ∧ t.cnt = s.cnt ∧ t.out = s.out ∧ t.outlen = s.outlen

/-- OR (spec/41_bitwise.md R86, R88, spec/10_state.md R20, R45): as AND, with the disjunction. -/
def Obligations.OrResult : Prop :=
  ∀ (s : State) (d a b : Reg), s.hazard = false → (s.buf a).len = (s.buf b).len →
    ∃ t, exec (.or d a b) s = .next t ∧ s.Completed t 0 ∧ s.SameControl t ∧
      (t.buf d).len = (s.buf a).len ∧
      (∀ k : Fin 16, k.val < (s.buf a).len.val → (s.buf a).written k = true → (s.buf b).written k = true →
        (t.buf d).byte k = (s.buf a).byte k ||| (s.buf b).byte k) ∧
      (∀ k : Fin 16, (s.buf a).len.val ≤ k.val → (t.buf d).byte k = 0x00) ∧ (∀ k : Fin 16, (t.buf d).written k = true) ∧
      (∀ r : Reg, r ≠ d → (t.buf r) = (s.buf r)) ∧ t.cnt = s.cnt ∧ t.out = s.out ∧ t.outlen = s.outlen

/-- NOT (spec/41_bitwise.md R87, R88, spec/10_state.md R20, R45): each byte XOR 0xFF below the length, 0x00 (not 0xFF) above it. -/
def Obligations.NotResult : Prop :=
  ∀ (s : State) (d a : Reg), s.hazard = false →
    ∃ t, exec (.not d a) s = .next t ∧ s.Completed t 0 ∧ s.SameControl t ∧
      (t.buf d).len = (s.buf a).len ∧
      (∀ k : Fin 16, k.val < (s.buf a).len.val → (s.buf a).written k = true → (t.buf d).byte k = (s.buf a).byte k ^^^ 0xFF) ∧
      (∀ k : Fin 16, (s.buf a).len.val ≤ k.val → (t.buf d).byte k = 0x00) ∧ (∀ k : Fin 16, (t.buf d).written k = true) ∧
      (∀ r : Reg, r ≠ d → (t.buf r) = (s.buf r)) ∧ t.cnt = s.cnt ∧ t.out = s.out ∧ t.outlen = s.outlen

/-- AND and OR on operands of different lengths end with ERR = 1 and write nothing but STATUS, whatever the data bytes and whether
or not they were written (spec/41_bitwise.md R85, R86, spec/60_exceptions.md R110, R116). -/
def Obligations.LengthMismatchWritesOnlyStatus : Prop :=
  ∀ (s : State) (d a b : Reg), s.hazard = false → (s.buf a).len ≠ (s.buf b).len →
    ∀ i ∈ [Instr.and d a b, Instr.or d a b],
      ∃ t, exec i s = .next t ∧ s.Completed t 1 ∧ s.SameData t ∧ s.SameControl t ∧ t.faults = s.faults

/-- CARD (spec/42_cardinality.md R92, R94): the inclusive count of the two integer views, whatever the two lengths; nothing else
but STATUS changes. -/
def Obligations.CardResult : Prop :=
  ∀ (s : State) (a b : Reg), s.hazard = false → (s.buf a).ready = true → (s.buf b).ready = true →
    ∃ t, exec (.card a b) s = .next t ∧ s.Completed t 0 ∧ s.SameControl t ∧ t.faults = s.faults ∧
      t.v = s.v ∧ t.out = s.out ∧ t.outlen = s.outlen ∧
      (t.cnt.toNat : Int) = |(uint (s.buf a).bytes : Int) - uint (s.buf b).bytes| + 1

/-- Every CARD leaves `1 ≤ CNT ≤ 2^128`, in every state (spec/42_cardinality.md R93). -/
def Obligations.CardCountInRange : Prop :=
  ∀ (s : State) (a b : Reg), ∃ t, exec (.card a b) s = .next t ∧ 1 ≤ t.cnt.toNat ∧ t.cnt.toNat ≤ 2 ^ 128 ∧
    t.cnt.toNat = inclusiveCount (uint (s.view 0 a).bytes) (uint (s.view 1 b).bytes)

/-- The integer view is big-endian (spec/00_scope.md R10): the sum of the bytes times powers of 256, byte 0 the highest. -/
def Obligations.IntegerViewIsBigEndian : Prop :=
  ∀ d : List Byte, uint d = ∑ k ∈ Finset.range d.length, (d.getD k 0).toNat * 256 ^ (d.length - 1 - k)

/-- `card vA, vB` and `card vB, vA` give the same CNT (spec/42_cardinality.md R95). -/
def Obligations.CardIsSymmetric : Prop :=
  ∀ (s : State) (a b : Reg), s.hazard = false → (s.buf a).ready = true → (s.buf b).ready = true →
    ∃ t t', exec (.card a b) s = .next t ∧ exec (.card b a) s = .next t' ∧ t.cnt = t'.cnt

/-- FBIN (spec/43_encoder.md R100): character `9k + j` is binary digit `7 − j` of byte `k`, a space stands between two bytes,
OUTLEN is `9n − 1` (0 for n = 0), and zeros follow. -/
def Obligations.FbinWritesBinaryOctets : Prop :=
  ∀ (s : State) (a : Reg), s.hazard = false → (s.buf a).ready = true →
    ∃ t, exec (.fbin a) s = .next t ∧ s.Completed t 0 ∧ s.SameControl t ∧ t.faults = s.faults ∧ t.v = s.v ∧ t.cnt = s.cnt ∧
      t.outlen.val = 9 * (s.buf a).len.val - 1 ∧
      ∀ p : Fin 143, t.out[p] =
        if 9 * (s.buf a).len.val - 1 ≤ p.val then 0x00
        else if p.val % 9 = 8 then 0x20
        else if ((s.buf a).bytes.getD (p.val / 9) 0).getLsbD (7 - p.val % 9) then 0x31 else 0x30

/-- FDEC8 (spec/43_encoder.md R101): the decimal numerals of the bytes joined with dots, for any length. -/
def Obligations.Fdec8WritesDottedDecimal : Prop :=
  ∀ (s : State) (a : Reg), s.hazard = false → (s.buf a).ready = true →
    ∃ t, exec (.fdec8 a) s = .next t ∧ s.Completed t 0 ∧ s.SameControl t ∧ t.faults = s.faults ∧ t.v = s.v ∧ t.cnt = s.cnt ∧
      t.Emitted (join 0x2E ((s.buf a).bytes.map fun b => dec b.toNat))

/-- FDEC16 (spec/43_encoder.md R102): the decimal numerals of the 16-bit groups joined with dots; an odd length gives "".
That no data byte is read then, so that the operand need not have been written, is the model's reading (log 14, DEDUCED). -/
def Obligations.Fdec16WritesGroups : Prop :=
  ∀ (s : State) (a : Reg), s.hazard = false → ((s.buf a).len.val % 2 = 0 → (s.buf a).ready = true) →
    ∃ t, exec (.fdec16 a) s = .next t ∧ s.Completed t 0 ∧ s.SameControl t ∧ t.faults = s.faults ∧ t.v = s.v ∧ t.cnt = s.cnt ∧
      t.Emitted (if (s.buf a).len.val % 2 = 1 then []
        else join 0x2E ((List.range ((s.buf a).len.val / 2)).map fun g => dec (groupAt (s.buf a).bytes g)))

/-- FHEX (spec/43_encoder.md R103): for 16 bytes the eight groups as four hexadecimal digits joined with colons, 39 characters; ""
for every other length. That no data byte is read then, so that the operand need not have been written, is the model's reading
(log 14, DEDUCED). -/
def Obligations.FhexWritesFullForm : Prop :=
  ∀ (s : State) (a : Reg), s.hazard = false → ((s.buf a).len.val = 16 → (s.buf a).ready = true) →
    ∃ t, exec (.fhex a) s = .next t ∧ s.Completed t 0 ∧ s.SameControl t ∧ t.faults = s.faults ∧ t.v = s.v ∧ t.cnt = s.cnt ∧
      t.outlen.val = (if (s.buf a).len.val = 16 then 39 else 0) ∧
      t.Emitted (if (s.buf a).len.val = 16
        then join 0x3A ((List.range 8).map fun g => hex4 (groupAt (s.buf a).bytes g)) else [])

/-- FSHEX on what is no 16-byte value, or an IPv4-mapped one (spec/43_encoder.md R104): "", or dotted decimal of bytes 12..15.
That no data byte is read of a length other than 16, so that the fault set stays as it was though the operand was never written,
is the model's reading (log 14, DEDUCED). -/
def Obligations.FshexOtherForms : Prop :=
  ∀ (s : State) (a : Reg), s.hazard = false →
    ((s.buf a).len.val ≠ 16 → ∃ t, exec (.fshex a) s = .next t ∧ s.Completed t 0 ∧ s.SameControl t ∧ t.faults = s.faults ∧
      t.v = s.v ∧ t.cnt = s.cnt ∧ t.Emitted []) ∧
    ((s.buf a).len.val = 16 → (s.buf a).ready = true → (∀ k, k < 10 → (s.buf a).bytes.getD k 0 = 0x00) →
      (s.buf a).bytes.getD 10 0 = 0xFF → (s.buf a).bytes.getD 11 0 = 0xFF →
      ∃ t, exec (.fshex a) s = .next t ∧ s.Completed t 0 ∧ s.SameControl t ∧ t.faults = s.faults ∧ t.v = s.v ∧ t.cnt = s.cnt ∧
        t.Emitted (join 0x2E (((s.buf a).bytes.drop 12).map fun b => dec b.toNat)))

/-- FSHEX on a 16-byte value that is not IPv4-mapped collapses the first longest run of zero groups, if it has two or more, and no
other run (spec/43_encoder.md R104, R105). -/
def Obligations.FshexCollapsesFirstLongestRun : Prop :=
  ∀ (s : State) (a : Reg), s.hazard = false → (s.buf a).len.val = 16 → (s.buf a).ready = true →
    (s.buf a).bytes.take 12 ≠ List.replicate 10 0x00 ++ [0xFF, 0xFF] →
    ∃ t, exec (.fshex a) s = .next t ∧ s.Completed t 0 ∧ s.SameControl t ∧ t.faults = s.faults ∧ t.v = s.v ∧ t.cnt = s.cnt ∧
      ((∀ i, i < 7 → ¬ ZeroGroups (s.buf a).bytes i 2) →
        t.Emitted (join 0x3A ((List.range 8).map fun g => hexmin (groupAt (s.buf a).bytes g)))) ∧
      ∀ bs bl : Nat, 2 ≤ bl → bs + bl ≤ 8 → ZeroGroups (s.buf a).bytes bs bl →
        (∀ i n, i + n ≤ 8 → ZeroGroups (s.buf a).bytes i n → n ≤ bl) →
        (∀ i, i < bs → ¬ ZeroGroups (s.buf a).bytes i bl) →
        t.Emitted (join 0x3A ((List.range bs).map fun g => hexmin (groupAt (s.buf a).bytes g)) ++ [0x3A, 0x3A] ++
          join 0x3A ((List.range (8 - (bs + bl))).map fun g => hexmin (groupAt (s.buf a).bytes (bs + bl + g))))

/-- FCNT (spec/43_encoder.md R106): the decimal numeral of CNT. -/
def Obligations.FcntWritesDecimalCount : Prop :=
  ∀ s : State, s.hazard = false →
    ∃ t, exec .fcnt s = .next t ∧ s.Completed t 0 ∧ s.SameControl t ∧ t.faults = s.faults ∧ t.v = s.v ∧ t.cnt = s.cnt ∧
      t.Emitted (dec s.cnt.toNat)

/-- The strings of spec/00_scope.md R11: `dec` and `hexmin` are the numerals with no leading zeros, `hex4` and `bin8` are
zero-padded to four and eight digits. Every character of `hex4` is one of '0'..'9', 'a'..'f', and of `bin8` '0' or '1'. -/
def Obligations.StringFunctionsAreNumerals : Prop :=
  (∀ v : Nat, IsNumeral 10 v (dec v)) ∧ (∀ v : Nat, IsNumeral 16 v (hexmin v)) ∧
    (∀ v : Nat, v < 65536 → (hex4 v).length = 4 ∧ (hex4 v).foldl (fun acc c => acc * 16 + charValue c) 0 = v ∧
      ∀ c ∈ hex4 v, charValue c < 16 ∧ ((0x30 ≤ c.toNat ∧ c.toNat ≤ 0x39) ∨ (0x61 ≤ c.toNat ∧ c.toNat ≤ 0x66))) ∧
    ∀ b : Byte, (bin8 b).length = 8 ∧ (bin8 b).foldl (fun acc c => acc * 2 + charValue c) 0 = b.toNat ∧
      ∀ c ∈ bin8 b, c = 0x30 ∨ c = 0x31

/-- The largest OUTLEN of each formatter, in every state, that each is reached, and that none passes OUTMAX
(spec/43_encoder.md R107). -/
def Obligations.OutputLengthsAreBounded : Prop :=
  (∀ (i : Instr) (s : State), i.isFormatter = true →
    ∃ t, exec i s = .next t ∧ t.outlen.val ≤ i.maxOut ∧ i.maxOut ≤ Config.outMax) ∧
  ∀ i ∈ [Instr.fbin 0, Instr.fdec8 0, Instr.fdec16 0, Instr.fhex 0, Instr.fshex 0, Instr.fcnt],
    ∃ s t : State, exec i s = .next t ∧ t.outlen.val = i.maxOut

/-- Formatters are functions of their operand: equal operand values give equal OUT and OUTLEN, in whatever registers and whatever
the rest of the state (spec/43_encoder.md R108). -/
def Obligations.FormattersDependOnlyOnOperand : Prop :=
  (∀ (s s' : State) (a a' : Reg), s.hazard = false → s'.hazard = false → (s.buf a).ready = true → (s'.buf a').ready = true →
    (s.buf a).bytes = (s'.buf a').bytes →
    ∀ k ∈ [Instr.fbin, Instr.fdec8, Instr.fdec16, Instr.fhex, Instr.fshex],
      ∃ t t', exec (k a) s = .next t ∧ exec (k a') s' = .next t' ∧ t.out = t'.out ∧ t.outlen = t'.outlen) ∧
  ∀ s s' : State, s.hazard = false → s'.hazard = false → s.cnt = s'.cnt →
    ∃ t t', exec .fcnt s = .next t ∧ exec .fcnt s' = .next t' ∧ t.out = t'.out ∧ t.outlen = t'.outlen

/-! ### Frames and whole-machine rules -/

/-- The frame of AND, OR and NOT in every state, after a HostHazard too: only the destination, STATUS and the fault set can
change, and ERR is 0 or 1 (spec/10_state.md R18, spec/41_bitwise.md R85 to R87). -/
def Obligations.BitwiseFrame : Prop :=
  ∀ (s : State) (i : Instr) (d : Reg), i.dest? = some d →
    ∃ t, exec i s = .next t ∧ (s.Completed t 0 ∨ s.Completed t 1) ∧ s.SameControl t ∧ (∀ r : Reg, r ≠ d → (t.buf r) = (s.buf r)) ∧
      t.cnt = s.cnt ∧ t.out = s.out ∧ t.outlen = s.outlen

/-- The frame of every other command in every state: no buffer register changes, only CARD writes CNT, only a formatter writes OUT
and OUTLEN, and ERR is 0 (spec/43_encoder.md R99, spec/42_cardinality.md R92, spec/40_command_execution.md R81). -/
def Obligations.NonBitwiseFrame : Prop :=
  ∀ (s : State) (i : Instr), i.dest? = none →
    ∃ t, exec i s = .next t ∧ s.Completed t 0 ∧ s.SameControl t ∧ t.v = s.v ∧
      ((∀ a b, i ≠ .card a b) → t.cnt = s.cnt) ∧ (i.isFormatter = false → t.out = s.out ∧ t.outlen = s.outlen)

/-- A completion with an error changes no buffer register, CNT, OUT or OUTLEN, and nothing else but STATUS, for legal and illegal
words and in every state (spec/40_command_execution.md R80). -/
def Obligations.ErrorChangesOnlyStatus : Prop :=
  ∀ (w : Word) (s t : State), engineStep w s = .next t → t.err ≠ 0 →
    s.SameData t ∧ s.SameControl t ∧ t.faults = s.faults ∧ s.Completed t t.err

/-- Which completion records UnwrittenOperand: exactly one that reads a data byte below LEN that was never written; a command
records nothing else (spec/10_state.md R45, spec/60_exceptions.md R116). That FDEC16, FHEX and FSHEX of a length they do not render
read no data byte is the model's reading (log 14, DEDUCED). -/
def Obligations.UnwrittenOperandRecorded : Prop :=
  ∀ (s t : State) (i : Instr), s.hazard = false → exec i s = .next t →
    t.faults = { s.faults with
      unwrittenOperand := s.faults.unwrittenOperand || !((i.dataOperands s).all fun r => (s.buf r).ready) }

/-- No command reads CTRL or STATUS: changing the flags and the error record before a command changes nothing in its data
results, its fault record or its result code (spec/10_state.md R23, R30, spec/43_encoder.md R108). -/
def Obligations.NoCommandReadsFlags : Prop :=
  ∀ (s s' t t' : State) (i : Instr), s.SameData s' → s'.hits = s.hits → s'.draws = s.draws → s'.faults = s.faults →
    exec i s = .next t → exec i s' = .next t' → t.SameData t' ∧ t'.err = t.err ∧ t'.faults = t.faults

/-- CNT changes in no step but the completion of a CARD, and OUT and OUTLEN in no step but that of a formatter; the assertion of
`rst` changes them too (spec/10_state.md R31, R32). -/
def Obligations.ResultsChangeOnlyByTheirCommands : Prop :=
  ∀ s t : State, step s = .next t → (∀ rest, ¬ s.HostTurn (.rst true) rest) →
    (t.cnt ≠ s.cnt → ∃ w a b, s.readyWord = some w ∧ decode w = .instr (.card a b)) ∧
      (t.out ≠ s.out ∨ t.outlen ≠ s.outlen →
        ∃ w i, s.readyWord = some w ∧ decode w = .instr i ∧ i.isFormatter = true)

/-- DONE, ERRS and OVR are cleared only by a STATUS write with their bit set, or by reset: no completion clears one
(spec/60_exceptions.md R115). -/
def Obligations.StickyBitsClearedOnlyByHost : Prop :=
  ∀ s t : State, step s = .next t → ∀ (bit : Nat) (f : State → Bool),
    (bit, f) ∈ [(1, State.done), (8, State.errs), (9, State.ovr)] → f s = true → f t = false →
      (∃ a w rest, s.HostTurn (.access a) rest ∧ a.place.offset? = some 0x008 ∧ a.kind = .write w ∧ w.getLsbD bit = true) ∨
        ∃ rest, s.HostTurn (.rst true) rest

/-- The fault set is empty at reset and only grows; no host access and no command removes a member (spec/10_state.md R46). -/
def Obligations.FaultSetOnlyGrows : Prop :=
  State.reset.faults = FaultSet.empty ∧
  ∀ s t : State, step s = .next t → (∀ rest, ¬ s.HostTurn (.rst true) rest) →
    (s.faults.unwrittenOperand = true → t.faults.unwrittenOperand = true) ∧
      (s.faults.hostHazard = true → t.faults.hostHazard = true) ∧
      (s.faults.hostAccessRefused = true → t.faults.hostAccessRefused = true)

/-- A host that keeps its duties stays in good states: no access is refused, no buffer register is written while BUSY = 1, and the
data operands of a command that is due were written (spec/70_reset_and_hazards.md R131, R132, spec/00_scope.md R14). The duty asked
is less than that of R131 (3), which speaks of every buffer register the command reads: it asks for the data bytes of
`Instr.dataOperands` only, so an FDEC16 of odd length, or an FHEX or FSHEX of a length other than 16, stays good on bytes never
written, which is the model's reading (log 14, DEDUCED). That AND and OR of unequal lengths read no byte is R116's
(spec/60_exceptions.md). What a refused access is follows R53, R129 and log 10 (DEDUCED). -/
def Obligations.DutifulHostStaysGood : Prop :=
  ∀ s t : State, s.good → s.hazard = false → s.rst = false → step s = .next t →
    (∀ w i, s.readyWord = some w → decode w = .instr i → ∀ r ∈ i.dataOperands s, (s.buf r).ready = true) →
    (∀ a rest, s.HostTurn (.access a) rest → a.width = .bits32 ∧ ∃ off, a.place.offset? = some off ∧ off % 4 = 0 ∧
      ∀ w, a.kind = .write w → s.busy = true → ¬ (0x100 ≤ off ∧ off < 0x200)) →
    t.good

/-! ### The range calculation -/

/-- The `range` pseudo-instruction and CARD (spec/30_encoding.md R76, spec/42_cardinality.md R96, R97): for an n-byte address and
`mask(p, n)` with `0 ≤ p ≤ 8n`, the four commands leave `CNT = 2^(8n − p)`, and first ≤ last with difference `2^(8n − p) − 1`;
a single-host prefix gives first = last = the address, and prefix 0 the all-zero and the all-0xFF value. -/
def Obligations.RangeCountsPrefix : Prop :=
  ∀ (s : State) (r : RangeCmd) (p n : Nat), r.wellFormed = true → s.hazard = false → (s.buf r.a).ready = true →
    (s.buf r.m).ready = true → (s.buf r.a).len.val = n → (s.buf r.m).bytes = mask p n → p ≤ 8 * n →
    ∃ t, runCommands (r.expand ++ [.card r.f r.l]) s = .next t ∧ t.err = 0 ∧ t.cnt.toNat = 2 ^ (8 * n - p) ∧
      uint (t.buf r.l).bytes = uint (t.buf r.f).bytes + (2 ^ (8 * n - p) - 1) ∧
      (p = 8 * n → (t.buf r.f).bytes = (s.buf r.a).bytes ∧ (t.buf r.l).bytes = (s.buf r.a).bytes) ∧
      (p = 0 → (t.buf r.f).bytes = List.replicate n 0x00 ∧ (t.buf r.l).bytes = List.replicate n 0xFF)

/-- For any mask of the address's length, `range` leaves AND(address, mask) in vF and OR(address, INVERT(mask)) in vL, and first ≤
last (spec/30_encoding.md R76, spec/42_cardinality.md R96, R97 law 1). -/
def Obligations.RangeGivesFirstAndLast : Prop :=
  ∀ (s : State) (r : RangeCmd), r.wellFormed = true → s.hazard = false → (s.buf r.a).ready = true → (s.buf r.m).ready = true →
    (s.buf r.a).len = (s.buf r.m).len →
    ∃ t, runCommands r.expand s = .next t ∧ t.err = 0 ∧ t.faults = s.faults ∧
      (t.buf r.f).bytes = List.zipWith (fun x y => x &&& y) (s.buf r.a).bytes (s.buf r.m).bytes ∧
      (t.buf r.l).bytes = List.zipWith (fun x y => x ||| (y ^^^ 0xFF)) (s.buf r.a).bytes (s.buf r.m).bytes ∧
      uint (t.buf r.f).bytes ≤ uint (t.buf r.l).bytes

/-- The laws of spec/41_bitwise.md R91 as runs of commands: AND with a mask is idempotent, NOT is an involution, and
OR(AND(x, m), INVERT(m)) = OR(x, INVERT(m)). -/
def Obligations.BitwiseLaws : Prop :=
  ∀ (s : State), s.hazard = false →
    (∀ d e x m : Reg, (s.buf x).ready = true → (s.buf m).ready = true → (s.buf x).len = (s.buf m).len → d ≠ m →
      ∃ t t', exec (.and d x m) s = .next t ∧ exec (.and e d m) t = .next t' ∧ t'.err = 0 ∧ (t'.buf e).bytes = (t.buf d).bytes) ∧
    (∀ d e x : Reg, (s.buf x).ready = true →
      ∃ t t', exec (.not d x) s = .next t ∧ exec (.not e d) t = .next t' ∧ t'.err = 0 ∧ (t'.buf e).bytes = (s.buf x).bytes) ∧
    ∀ d n e g x m : Reg, (s.buf x).ready = true → (s.buf m).ready = true → (s.buf x).len = (s.buf m).len → d ≠ m → d ≠ n → d ≠ x → n ≠ x →
      e ≠ x → e ≠ n →
      ∃ t, runCommands [.and d x m, .not n m, .or e d n, .or g x n] s = .next t ∧ t.err = 0 ∧
        (e ≠ g → (t.buf e).bytes = (t.buf g).bytes)

/-! ### The host port -/

/-- ID and PARAM always read their constants, also while BUSY = 1, and writes to them are ignored (spec/10_state.md R33, R34). -/
def Obligations.IdAndParamAreConstant : Prop :=
  ∀ (s : State) (rest : List HostEvent), s.rst = false → ∀ off w, (off, w) ∈ [(0x000, 0x51530007), (0x014, 0x008F0810)] →
    (s.HostTurn (.R off) rest → ∃ t, step s = .next t ∧ t.reads = w :: s.reads ∧ s.SameData t ∧ s.SameFlags t ∧
      t.pend = s.pend ∧ t.faults = s.faults) ∧
    ∀ x, s.HostTurn (.W off x) rest → ∃ t, step s = .next t ∧ t.reads = s.reads ∧ s.SameData t ∧ s.SameFlags t ∧
      t.pend = s.pend ∧ t.faults = s.faults

/-- STATUS (spec/10_state.md R25): what each of its 32 bits reads as, busy or not, which bits a write of 1 clears, that every other
bit of the written value is ignored, and its reset value. -/
def Obligations.StatusReadAndClear : Prop :=
  State.reset.statusWord = 0 ∧
  (∀ (s : State) (rest : List HostEvent), s.rst = false → s.HostTurn (.R 0x008) rest →
    ∃ t w, step s = .next t ∧ t.reads = w :: s.reads ∧ s.SameData t ∧ s.SameFlags t ∧ t.pend = s.pend ∧ t.faults = s.faults ∧
      ∀ k, k < 32 → w.getLsbD k =
        if k = 0 then s.pend.isSome
        else if k = 1 then s.done
        else if 4 ≤ k ∧ k ≤ 7 then s.err.getLsbD (k - 4)
        else if k = 8 then s.errs
        else if k = 9 then s.ovr
        else false) ∧
  ∀ (s : State) (x : Word) (rest : List HostEvent), s.rst = false → s.HostTurn (.W 0x008 x) rest →
    ∃ t, step s = .next t ∧ t.done = (s.done && !x.getLsbD 1) ∧ t.errs = (s.errs && !x.getLsbD 8) ∧
      t.ovr = (s.ovr && !x.getLsbD 9) ∧ t.err = s.err ∧ t.pend = s.pend ∧ t.doneie = s.doneie ∧ t.errie = s.errie ∧
      s.SameData t ∧ t.faults = s.faults ∧ t.reads = s.reads

/-- CTRL (spec/10_state.md R30): DONEIE is bit 0 and ERRIE bit 1, both read and written by the host at any time, busy or not
(spec/70_reset_and_hazards.md R135), and reserved bits read 0; no command writes it. -/
def Obligations.CtrlReadAndWrite : Prop :=
  (∀ (s : State) (rest : List HostEvent), s.rst = false → s.HostTurn (.R 0x00C) rest →
    ∃ t w, step s = .next t ∧ t.reads = w :: s.reads ∧ s.SameData t ∧ s.SameFlags t ∧ t.pend = s.pend ∧ t.faults = s.faults ∧
      ∀ k, k < 32 → w.getLsbD k = if k = 0 then s.doneie else if k = 1 then s.errie else false) ∧
  (∀ (s : State) (x : Word) (rest : List HostEvent), s.rst = false → s.HostTurn (.W 0x00C x) rest →
    ∃ t, step s = .next t ∧ t.doneie = x.getLsbD 0 ∧ t.errie = x.getLsbD 1 ∧ t.done = s.done ∧ t.errs = s.errs ∧
      t.ovr = s.ovr ∧ t.err = s.err ∧ t.pend = s.pend ∧ s.SameData t ∧ t.faults = s.faults ∧ t.reads = s.reads) ∧
  ∀ (w : Word) (s t : State), engineStep w s = .next t → t.doneie = s.doneie ∧ t.errie = s.errie

/-- The interrupt line (spec/60_exceptions.md R114, R115): `irq` is asserted exactly when an enabled bit is set. -/
def Obligations.IrqFollowsEnabledBits : Prop :=
  ∀ s : State, s.irq = true ↔ (s.statusWord.getLsbD 1 = true ∧ s.ctrlWord.getLsbD 0 = true) ∨
    ((s.statusWord.getLsbD 8 = true ∨ s.statusWord.getLsbD 9 = true) ∧ s.ctrlWord.getLsbD 1 = true)

/-- `Vi.LEN` (spec/10_state.md R37), while no command is pending: a read returns LEN, a write of at most 16 sets it and any other
write is ignored, DATA unchanged. -/
def Obligations.LenIsWarl : Prop :=
  (∀ (s : State) (i : Reg) (rest : List HostEvent), s.rst = false → s.pend = none → s.HostTurn (.R (0x100 + 0x20 * i.val)) rest →
    ∃ t w, step s = .next t ∧ t.reads = w :: s.reads ∧ w.toNat = (s.buf i).len.val ∧ s.SameData t ∧ s.SameFlags t ∧
      t.pend = none ∧ t.faults = s.faults) ∧
  ∀ (s : State) (i : Reg) (x : Word) (rest : List HostEvent), s.rst = false → s.pend = none →
    s.HostTurn (.W (0x100 + 0x20 * i.val) x) rest →
    ∃ t, step s = .next t ∧ (t.buf i).len.val = (if x.toNat ≤ 16 then x.toNat else (s.buf i).len.val) ∧
      (t.buf i).data = (s.buf i).data ∧ (t.buf i).wr = (s.buf i).wr ∧ (∀ r : Reg, r ≠ i → (t.buf r) = (s.buf r)) ∧ t.cnt = s.cnt ∧ t.out = s.out ∧
      t.outlen = s.outlen ∧ s.SameFlags t ∧ t.pend = none ∧ t.faults = s.faults ∧ t.reads = s.reads

/-- `Vi.DATAj` (spec/10_state.md R38, R45), while no command is pending: a write sets bytes 4j..4j+3, the first in bits 31:24, and
their written bits, whatever LEN is; a read returns them. -/
def Obligations.DataWordsAreBigEndian : Prop :=
  (∀ (s : State) (i : Reg) (j : Fin 4) (rest : List HostEvent), s.rst = false → s.pend = none →
    s.HostTurn (.R (0x110 + 0x20 * i.val + 4 * j.val)) rest →
    ∃ t w, step s = .next t ∧ t.reads = w :: s.reads ∧ s.SameData t ∧ s.SameFlags t ∧ t.pend = none ∧ t.faults = s.faults ∧
      ∀ k : Fin 16, k.val / 4 = j.val → w.extractLsb' (24 - 8 * (k.val % 4)) 8 = (s.buf i).byte k) ∧
  ∀ (s : State) (i : Reg) (j : Fin 4) (x : Word) (rest : List HostEvent), s.rst = false → s.pend = none →
    s.HostTurn (.W (0x110 + 0x20 * i.val + 4 * j.val) x) rest →
    ∃ t, step s = .next t ∧ (t.buf i).len = (s.buf i).len ∧
      (∀ k : Fin 16, (t.buf i).byte k =
        if k.val / 4 = j.val then x.extractLsb' (24 - 8 * (k.val % 4)) 8 else (s.buf i).byte k) ∧
      (∀ k : Fin 16, (t.buf i).written k = (decide (k.val / 4 = j.val) || (s.buf i).written k)) ∧
      (∀ r : Reg, r ≠ i → (t.buf r) = (s.buf r)) ∧ t.cnt = s.cnt ∧ t.out = s.out ∧ t.outlen = s.outlen ∧ s.SameFlags t ∧
      t.pend = none ∧ t.faults = s.faults ∧ t.reads = s.reads

/-- `CNT0`..`CNT4` (spec/10_state.md R32) and OUTLEN (R31), while no command is pending: the five words of CNT, least significant
first, and the length. The read changes no register, no flag and no fault, and leaves no command pending. -/
def Obligations.CountWordsLeastSignificantFirst : Prop :=
  ∀ (s : State) (rest : List HostEvent), s.rst = false → s.pend = none →
    (∀ j : Fin 5, s.HostTurn (.R (0x020 + 4 * j.val)) rest →
      ∃ t w, step s = .next t ∧ t.reads = w :: s.reads ∧ w.toNat = s.cnt.toNat / 2 ^ (32 * j.val) % 2 ^ 32 ∧ s.SameData t ∧
        s.SameFlags t ∧ t.pend = none ∧ t.faults = s.faults) ∧
    (s.HostTurn (.R 0x010) rest →
      ∃ t w, step s = .next t ∧ t.reads = w :: s.reads ∧ w.toNat = s.outlen.val ∧ s.SameData t ∧ s.SameFlags t ∧
        t.pend = none ∧ t.faults = s.faults)

/-- `OUT0`..`OUT35` (spec/10_state.md R39), in every state the invariant admits, while no command is pending: the characters, the
first in bits 31:24, and zeros at and above OUTLEN and at the position 143 that does not exist. -/
def Obligations.OutWordsHoldCharacters : Prop :=
  ∀ (s : State) (j : Fin 36) (rest : List HostEvent), s.Inv → s.rst = false → s.pend = none →
    s.HostTurn (.R (0x200 + 4 * j.val)) rest →
    ∃ t w, step s = .next t ∧ t.reads = w :: s.reads ∧ s.SameData t ∧ t.faults = s.faults ∧
      ∀ k : Fin 4, w.extractLsb' (24 - 8 * k.val) 8 =
        if h : 4 * j.val + k.val < s.outlen.val then s.out[4 * j.val + k.val]'(by omega) else 0x00

/-- Reserved offsets and CMD read 0, busy or not, and writes to reserved offsets and to read-only registers change nothing
(spec/10_state.md R29, R35, R36). -/
def Obligations.ReservedAndReadOnlyOffsets : Prop :=
  ∀ (s : State) (off : Nat) (rest : List HostEvent), s.rst = false → off % 4 = 0 → off < 0x1000 →
    (off = 0x004 ∨ (0x018 ≤ off ∧ off < 0x020) ∨ (0x034 ≤ off ∧ off < 0x100) ∨
        (0x100 ≤ off ∧ off < 0x200 ∧ 0x04 ≤ off % 0x20 ∧ off % 0x20 < 0x10) ∨ 0x290 ≤ off →
      s.HostTurn (.R off) rest → ∃ t, step s = .next t ∧ t.reads = 0 :: s.reads ∧ s.SameData t ∧ s.SameFlags t ∧
        t.pend = s.pend ∧ t.faults = s.faults) ∧
    ∀ x, off ≠ 0x004 → off ≠ 0x008 → off ≠ 0x00C →
      ¬ (0x100 ≤ off ∧ off < 0x200 ∧ (off % 0x20 = 0 ∨ 0x10 ≤ off % 0x20)) →
      s.HostTurn (.W off x) rest → ∃ t, step s = .next t ∧ t.reads = s.reads ∧ s.SameData t ∧ s.SameFlags t ∧
        t.pend = s.pend ∧ t.faults = s.faults

/-- No read of any offset, whatever its width and alignment and whether or not a command is pending, has a side effect on a
register or on the pending command. R56 (spec/20_memory.md) says so of the reads QSAB defines (R53, R54). That a read of another
width, at a misaligned offset or in reset has no effect is spec/93_implementation_defined.md's treatment as the model reads it
(log 10, DEDUCED), and that one outside the window does not reach QSAB is the model's reading of R54 (log 12, DEDUCED). -/
def Obligations.ReadsHaveNoSideEffect : Prop :=
  ∀ (s : State) (p : Place) (width : Width) (rest : List HostEvent), s.HostTurn (.access ⟨p, width, .read⟩) rest →
    ∃ t, step s = .next t ∧ s.SameData t ∧ s.SameFlags t ∧ t.pend = s.pend ∧ t.hits = s.hits ∧ t.rst = s.rst ∧ t.host = rest

/-- A result register read while BUSY = 1 returns a word that nothing constrains and records no fault
(spec/70_reset_and_hazards.md R134). The word is the free value Config.busyWord (log 6). -/
def Obligations.BusyResultReadIsFree : Prop :=
  ∀ (s : State) (off : Nat) (rest : List HostEvent), s.rst = false → s.pend ≠ none → s.HostTurn (.R off) rest → off % 4 = 0 →
    off = 0x010 ∨ (0x020 ≤ off ∧ off < 0x034) ∨
      (0x100 ≤ off ∧ off < 0x200 ∧ (off % 0x20 = 0 ∨ 0x10 ≤ off % 0x20)) ∨ (0x200 ≤ off ∧ off < 0x290) →
    ∃ t, step s = .next t ∧ t.reads = Config.busyWord s.draws :: s.reads ∧ t.draws = s.draws + 1 ∧ t.faults = s.faults ∧
      s.SameData t ∧ s.SameFlags t ∧ t.pend = s.pend

/-- A host write of a buffer register while BUSY = 1 (spec/70_reset_and_hazards.md R133): HostHazard is recorded, no other register
changes, the command stays pending, and its operands are marked as free values (log 2, 4, 5). -/
def Obligations.BufferWriteWhileBusyIsHazard : Prop :=
  ∀ (s : State) (off : Nat) (x : Word) (rest : List HostEvent), s.rst = false → s.pend ≠ none → s.HostTurn (.W off x) rest →
    off % 4 = 0 → 0x100 ≤ off → off < 0x200 → (off % 0x20 = 0 ∨ 0x10 ≤ off % 0x20) →
    ∃ t, step s = .next t ∧ t.faults = { s.faults with hostHazard := true } ∧ t.hazard = true ∧ t.pend = s.pend ∧
      (∀ r : Reg, r.val ≠ (off - 0x100) / 0x20 → (t.buf r) = (s.buf r)) ∧ t.cnt = s.cnt ∧ t.out = s.out ∧ t.outlen = s.outlen ∧
      s.SameFlags t ∧ t.reads = s.reads

/-- An access inside the window, given by its offset or by its bus address, of another width than 32 bits or at an offset that is
no multiple of 4, is refused (spec/20_memory.md R53). That it is recorded as HostAccessRefused and has no effect is
spec/93_implementation_defined.md's treatment; that a refused read returns no word is the model's reading (log 10, DEDUCED). -/
def Obligations.UndefinedAccessRefused : Prop :=
  ∀ (s : State) (p : Place) (off : Nat) (width : Width) (kind : AccessKind) (rest : List HostEvent),
    s.HostTurn (.access ⟨p, width, kind⟩) rest → p.offset? = some off → width ≠ .bits32 ∨ off % 4 ≠ 0 →
    ∃ t, step s = .next t ∧ t.faults = { s.faults with hostAccessRefused := true } ∧ s.SameData t ∧ s.SameFlags t ∧
      t.pend = s.pend ∧ t.rst = s.rst ∧ t.host = rest ∧ t.reads = s.reads

/-- A bus access reaches QSAB exactly when BLOCK_BASE ≤ a < BLOCK_BASE + 0x1000, at offset a − BLOCK_BASE, and BLOCK_BASE is
4 KiB aligned (spec/20_memory.md R54, spec/00_scope.md R6). A step with a bus access at BLOCK_BASE + off ends in the state in
which the same access at offset off ends, so the statements about accesses at an offset say what a bus access does. That an
access outside the window changes nothing is the model's reading (log 12, DEDUCED). -/
def Obligations.BusWindow : Prop :=
  Config.blockBase % 0x1000 = 0 ∧
  (∀ a off : Nat, (Place.bus a).offset? = some off ↔
    Config.blockBase ≤ a ∧ a < Config.blockBase + 0x1000 ∧ off = a - Config.blockBase) ∧
  (∀ (s : State) (off : Nat) (width : Width) (kind : AccessKind) (rest : List HostEvent), off < 0x1000 →
    s.HostTurn (.access ⟨.bus (Config.blockBase + off), width, kind⟩) rest →
    ∃ t, step s = .next t ∧ step { s with host := .access ⟨.offset off, width, kind⟩ :: rest } = .next t) ∧
  ∀ (s : State) (a : Nat) (width : Width) (kind : AccessKind) (rest : List HostEvent),
    s.HostTurn (.access ⟨.bus a, width, kind⟩) rest → ¬ (Config.blockBase ≤ a ∧ a < Config.blockBase + 0x1000) →
    ∃ t, step s = .next t ∧ s.SameData t ∧ s.SameFlags t ∧ t.pend = s.pend ∧ t.faults = s.faults ∧ t.reads = s.reads
end

