-- ==== Sys2Proof/Laws/Decode.lean ====
section
/-! SUPPORT. The fields of an encoded command, what the decoder answers in terms of the fields, and that legal fields are a
command's (spec/30_encoding.md R66 to R72). -/

namespace Sys2Proof

/-- The word's five fields are the raw fields `r`. -/
def FieldsAre (w : Word) (r : RawCmd) : Prop :=
  fieldOp w = r.op.code ∧ fieldRsv w = r.rsv ∧ fieldRd w = r.rd ∧ fieldRs1 w = r.rs1 ∧ fieldRs2 w = r.rs2

/-- A used field names register `r` exactly when it holds its number. -/
theorem reg?_some {f : BitVec 4} {r : Reg} : reg? f = some r ↔ f = Reg.field r := by
  revert f r; decide

/-- A used field of 8 or more names no register. -/
theorem reg?_none {f : BitVec 4} : reg? f = none ↔ 8 ≤ f.toNat := by
  revert f; decide

/-- The five fields are the whole word. -/
theorem word_ext {w x : Word} (h1 : fieldOp w = fieldOp x) (h2 : fieldRsv w = fieldRsv x) (h3 : fieldRd w = fieldRd x)
    (h4 : fieldRs1 w = fieldRs1 x) (h5 : fieldRs2 w = fieldRs2 x) : w = x := by
  apply BitVec.eq_of_getLsbD_eq
  intro k hk
  have e (n m : Nat) (hh : w.extractLsb' n m = x.extractLsb' n m) (hn : n ≤ k) (hm : k < n + m) :
      w.getLsbD k = x.getLsbD k := by
    have := congrArg (fun b => b.getLsbD (k - n)) hh
    simpa [BitVec.getLsbD_extractLsb', show k - n < m by omega, show n + (k - n) = k by omega] using this
  by_cases a : 24 ≤ k
  · exact e 24 8 h1 a (by omega)
  by_cases b : 12 ≤ k
  · exact e 12 12 h2 b (by omega)
  by_cases c : 8 ≤ k
  · exact e 8 4 h3 c (by omega)
  by_cases d : 4 ≤ k
  · exact e 4 4 h4 d (by omega)
  · exact e 0 4 h5 (by omega) (by omega)

/-- Two words with the same raw fields are equal. -/
theorem FieldsAre.unique {w x : Word} {r : RawCmd} (h : FieldsAre w r) (h' : FieldsAre x r) : w = x :=
  word_ext (h.1.trans h'.1.symm) (h.2.1.trans h'.2.1.symm) (h.2.2.1.trans h'.2.2.1.symm)
    (h.2.2.2.1.trans h'.2.2.2.1.symm) (h.2.2.2.2.trans h'.2.2.2.2.symm)

/-- The encoder places the raw fields. -/
theorem encode_fields (i : Instr) : FieldsAre (encode i) i.raw := by
  unfold FieldsAre
  cases i with
  | nop => decide
  | fcnt => decide
  | fbin a => revert a; decide
  | fdec8 a => revert a; decide
  | fdec16 a => revert a; decide
  | fhex a => revert a; decide
  | fshex a => revert a; decide
  | not d a => revert d a; decide
  | card a b => revert a b; decide
  | and d a b => revert d a b; set_option maxRecDepth 100000 in decide
  | or d a b => revert d a b; set_option maxRecDepth 100000 in decide

section rows

variable {rd a b : BitVec 4} {i : Instr}

theorem decode0_instr {j : Instr} (h : decode0 rd a b j = .instr i) : i = j ∧ rd = 0 ∧ a = 0 ∧ b = 0 := by
  unfold decode0 at h
  split at h
  · rename_i hc; injection h with h; exact ⟨h.symm, hc⟩
  · cases h

theorem decodeA_instr {k : Reg → Instr} (h : decodeA rd a b k = .instr i) :
    ∃ x, i = k x ∧ rd = 0 ∧ a = Reg.field x ∧ b = 0 := by
  unfold decodeA at h
  split at h
  · rename_i hc
    split at h
    · rename_i x hx; injection h with h; exact ⟨x, h.symm, hc.1, reg?_some.1 hx, hc.2⟩
    · cases h
  · cases h

theorem decodeAB_instr {k : Reg → Reg → Instr} (h : decodeAB rd a b k = .instr i) :
    ∃ x y, i = k x y ∧ rd = 0 ∧ a = Reg.field x ∧ b = Reg.field y := by
  unfold decodeAB at h
  split at h
  · rename_i hc
    split at h
    · rename_i x y hx hy; injection h with h; exact ⟨x, y, h.symm, hc, reg?_some.1 hx, reg?_some.1 hy⟩
    · cases h
  · cases h

theorem decodeDA_instr {k : Reg → Reg → Instr} (h : decodeDA rd a b k = .instr i) :
    ∃ d x, i = k d x ∧ rd = Reg.field d ∧ a = Reg.field x ∧ b = 0 := by
  unfold decodeDA at h
  split at h
  · rename_i hc
    split at h
    · rename_i d x hd hx; injection h with h; exact ⟨d, x, h.symm, reg?_some.1 hd, reg?_some.1 hx, hc⟩
    · cases h
  · cases h

theorem decodeDAB_instr {k : Reg → Reg → Reg → Instr} (h : decodeDAB rd a b k = .instr i) :
    ∃ d x y, i = k d x y ∧ rd = Reg.field d ∧ a = Reg.field x ∧ b = Reg.field y := by
  unfold decodeDAB at h
  split at h
  · rename_i d x y hd hx hy
    injection h with h
    exact ⟨d, x, y, h.symm, reg?_some.1 hd, reg?_some.1 hx, reg?_some.1 hy⟩
  · cases h

end rows

/-- The fields of a word that decodes to a command are the command's raw fields. -/
theorem decode_instr {w : Word} {i : Instr} (h : decode w = .instr i) : FieldsAre w i.raw := by
  unfold decode at h
  simp only at h
  by_cases h0 : fieldRsv w = 0
  case neg => rw [if_pos h0] at h; cases h
  rw [if_neg (by simpa using h0)] at h
  by_cases h1 : fieldOp w = 0x00
  · rw [if_pos h1] at h; obtain ⟨rfl, hr⟩ := decode0_instr h; exact ⟨h1, h0, hr⟩
  rw [if_neg h1] at h; clear h1
  by_cases h1 : fieldOp w = 0x01
  · rw [if_pos h1] at h; obtain ⟨x, y, z, rfl, hr⟩ := decodeDAB_instr h; exact ⟨h1, h0, hr⟩
  rw [if_neg h1] at h; clear h1
  by_cases h1 : fieldOp w = 0x02
  · rw [if_pos h1] at h; obtain ⟨x, y, z, rfl, hr⟩ := decodeDAB_instr h; exact ⟨h1, h0, hr⟩
  rw [if_neg h1] at h; clear h1
  by_cases h1 : fieldOp w = 0x03
  · rw [if_pos h1] at h; obtain ⟨x, y, rfl, hr⟩ := decodeDA_instr h; exact ⟨h1, h0, hr⟩
  rw [if_neg h1] at h; clear h1
  by_cases h1 : fieldOp w = 0x10
  · rw [if_pos h1] at h; obtain ⟨x, y, rfl, hr⟩ := decodeAB_instr h; exact ⟨h1, h0, hr⟩
  rw [if_neg h1] at h; clear h1
  by_cases h1 : fieldOp w = 0x20
  · rw [if_pos h1] at h; obtain ⟨x, rfl, hr⟩ := decodeA_instr h; exact ⟨h1, h0, hr⟩
  rw [if_neg h1] at h; clear h1
  by_cases h1 : fieldOp w = 0x21
  · rw [if_pos h1] at h; obtain ⟨x, rfl, hr⟩ := decodeA_instr h; exact ⟨h1, h0, hr⟩
  rw [if_neg h1] at h; clear h1
  by_cases h1 : fieldOp w = 0x22
  · rw [if_pos h1] at h; obtain ⟨x, rfl, hr⟩ := decodeA_instr h; exact ⟨h1, h0, hr⟩
  rw [if_neg h1] at h; clear h1
  by_cases h1 : fieldOp w = 0x23
  · rw [if_pos h1] at h; obtain ⟨x, rfl, hr⟩ := decodeA_instr h; exact ⟨h1, h0, hr⟩
  rw [if_neg h1] at h; clear h1
  by_cases h1 : fieldOp w = 0x24
  · rw [if_pos h1] at h; obtain ⟨x, rfl, hr⟩ := decodeA_instr h; exact ⟨h1, h0, hr⟩
  rw [if_neg h1] at h; clear h1
  by_cases h1 : fieldOp w = 0x28
  · rw [if_pos h1] at h; obtain ⟨rfl, hr⟩ := decode0_instr h; exact ⟨h1, h0, hr⟩
  rw [if_neg h1] at h
  cases h

/-- A legal used field is some register's. -/
theorem fieldOk_used {f : BitVec 4} (h : fieldOk true f = true) : ∃ r : Reg, f = Reg.field r := by
  revert f; decide

/-- A legal unused field is 0. -/
theorem fieldOk_unused {f : BitVec 4} (h : fieldOk false f = true) : f = 0 := by
  revert f; decide

/-- Legal raw fields are a command's. -/
theorem raw_surj (r : RawCmd) (h : r.wellFormed = true) : ∃ i : Instr, i.raw = r := by
  obtain ⟨op, rsv, rd, a, b⟩ := r
  simp only [RawCmd.wellFormed, Bool.and_eq_true, beq_iff_eq] at h
  obtain ⟨⟨⟨rfl, h1⟩, h2⟩, h3⟩ := h
  cases op <;> simp only [Op.usesRd, Op.usesRs1, Op.usesRs2] at h1 h2 h3
  case nop => rw [fieldOk_unused h1, fieldOk_unused h2, fieldOk_unused h3]; exact ⟨.nop, rfl⟩
  case fcnt => rw [fieldOk_unused h1, fieldOk_unused h2, fieldOk_unused h3]; exact ⟨.fcnt, rfl⟩
  case and =>
    obtain ⟨d, rfl⟩ := fieldOk_used h1; obtain ⟨x, rfl⟩ := fieldOk_used h2; obtain ⟨y, rfl⟩ := fieldOk_used h3
    exact ⟨.and d x y, rfl⟩
  case or =>
    obtain ⟨d, rfl⟩ := fieldOk_used h1; obtain ⟨x, rfl⟩ := fieldOk_used h2; obtain ⟨y, rfl⟩ := fieldOk_used h3
    exact ⟨.or d x y, rfl⟩
  case not =>
    obtain ⟨d, rfl⟩ := fieldOk_used h1; obtain ⟨x, rfl⟩ := fieldOk_used h2; rw [fieldOk_unused h3]
    exact ⟨.not d x, rfl⟩
  case card =>
    rw [fieldOk_unused h1]; obtain ⟨x, rfl⟩ := fieldOk_used h2; obtain ⟨y, rfl⟩ := fieldOk_used h3
    exact ⟨.card x y, rfl⟩
  case fbin => rw [fieldOk_unused h1, fieldOk_unused h3]; obtain ⟨x, rfl⟩ := fieldOk_used h2; exact ⟨.fbin x, rfl⟩
  case fdec8 => rw [fieldOk_unused h1, fieldOk_unused h3]; obtain ⟨x, rfl⟩ := fieldOk_used h2; exact ⟨.fdec8 x, rfl⟩
  case fdec16 => rw [fieldOk_unused h1, fieldOk_unused h3]; obtain ⟨x, rfl⟩ := fieldOk_used h2; exact ⟨.fdec16 x, rfl⟩
  case fhex => rw [fieldOk_unused h1, fieldOk_unused h3]; obtain ⟨x, rfl⟩ := fieldOk_used h2; exact ⟨.fhex x, rfl⟩
  case fshex => rw [fieldOk_unused h1, fieldOk_unused h3]; obtain ⟨x, rfl⟩ := fieldOk_used h2; exact ⟨.fshex x, rfl⟩

/-- No two mnemonics share an OP value. -/
theorem op_code_inj {a b : Op} (h : a.code = b.code) : a = b := by
  revert h; cases a <;> cases b <;> decide

end Sys2Proof
end

