-- ==== Sys2Proof/Laws/State.lean ====
section
/-! SUPPORT. One lemma per field of State per operation that is a plain record update: what the operation leaves in it. -/

namespace Sys2Proof.Machine

section setBuf

variable (s : State) (d : Reg) (b : Buffer)

@[simp] theorem State.setBuf_cnt : (s.setBuf d b).cnt = s.cnt := rfl
@[simp] theorem State.setBuf_out : (s.setBuf d b).out = s.out := rfl
@[simp] theorem State.setBuf_outlen : (s.setBuf d b).outlen = s.outlen := rfl
@[simp] theorem State.setBuf_pend : (s.setBuf d b).pend = s.pend := rfl
@[simp] theorem State.setBuf_done : (s.setBuf d b).done = s.done := rfl
@[simp] theorem State.setBuf_errs : (s.setBuf d b).errs = s.errs := rfl
@[simp] theorem State.setBuf_ovr : (s.setBuf d b).ovr = s.ovr := rfl
@[simp] theorem State.setBuf_err : (s.setBuf d b).err = s.err := rfl
@[simp] theorem State.setBuf_doneie : (s.setBuf d b).doneie = s.doneie := rfl
@[simp] theorem State.setBuf_errie : (s.setBuf d b).errie = s.errie := rfl
@[simp] theorem State.setBuf_faults : (s.setBuf d b).faults = s.faults := rfl
@[simp] theorem State.setBuf_rst : (s.setBuf d b).rst = s.rst := rfl
@[simp] theorem State.setBuf_hits : (s.setBuf d b).hits = s.hits := rfl
@[simp] theorem State.setBuf_wait : (s.setBuf d b).wait = s.wait := rfl
@[simp] theorem State.setBuf_draws : (s.setBuf d b).draws = s.draws := rfl
@[simp] theorem State.setBuf_resets : (s.setBuf d b).resets = s.resets := rfl
@[simp] theorem State.setBuf_host : (s.setBuf d b).host = s.host := rfl
@[simp] theorem State.setBuf_reads : (s.setBuf d b).reads = s.reads := rfl

end setBuf

section noteRead

variable (s : State) (slot : Nat) (r : Reg)

@[simp] theorem State.noteRead_v : (s.noteRead slot r).v = s.v := rfl
@[simp] theorem State.noteRead_cnt : (s.noteRead slot r).cnt = s.cnt := rfl
@[simp] theorem State.noteRead_out : (s.noteRead slot r).out = s.out := rfl
@[simp] theorem State.noteRead_outlen : (s.noteRead slot r).outlen = s.outlen := rfl
@[simp] theorem State.noteRead_pend : (s.noteRead slot r).pend = s.pend := rfl
@[simp] theorem State.noteRead_done : (s.noteRead slot r).done = s.done := rfl
@[simp] theorem State.noteRead_errs : (s.noteRead slot r).errs = s.errs := rfl
@[simp] theorem State.noteRead_ovr : (s.noteRead slot r).ovr = s.ovr := rfl
@[simp] theorem State.noteRead_err : (s.noteRead slot r).err = s.err := rfl
@[simp] theorem State.noteRead_doneie : (s.noteRead slot r).doneie = s.doneie := rfl
@[simp] theorem State.noteRead_errie : (s.noteRead slot r).errie = s.errie := rfl
@[simp] theorem State.noteRead_faults :
    (s.noteRead slot r).faults = { s.faults with unwrittenOperand := s.faults.unwrittenOperand || s.readsUnwritten slot r } := rfl
@[simp] theorem State.noteRead_rst : (s.noteRead slot r).rst = s.rst := rfl
@[simp] theorem State.noteRead_hits : (s.noteRead slot r).hits = s.hits := rfl
@[simp] theorem State.noteRead_wait : (s.noteRead slot r).wait = s.wait := rfl
@[simp] theorem State.noteRead_draws : (s.noteRead slot r).draws = s.draws := rfl
@[simp] theorem State.noteRead_resets : (s.noteRead slot r).resets = s.resets := rfl
@[simp] theorem State.noteRead_host : (s.noteRead slot r).host = s.host := rfl
@[simp] theorem State.noteRead_reads : (s.noteRead slot r).reads = s.reads := rfl
@[simp] theorem State.noteRead_buf (q : Reg) : (s.noteRead slot r).buf q = s.buf q := rfl

end noteRead

section writeBuf

variable (s : State) (d : Reg) (n : Fin 17) (x : Vector Byte 16)

@[simp] theorem State.writeBuf_cnt : (s.writeBuf d n x).cnt = s.cnt := rfl
@[simp] theorem State.writeBuf_out : (s.writeBuf d n x).out = s.out := rfl
@[simp] theorem State.writeBuf_outlen : (s.writeBuf d n x).outlen = s.outlen := rfl
@[simp] theorem State.writeBuf_pend : (s.writeBuf d n x).pend = s.pend := rfl
@[simp] theorem State.writeBuf_done : (s.writeBuf d n x).done = s.done := rfl
@[simp] theorem State.writeBuf_errs : (s.writeBuf d n x).errs = s.errs := rfl
@[simp] theorem State.writeBuf_ovr : (s.writeBuf d n x).ovr = s.ovr := rfl
@[simp] theorem State.writeBuf_err : (s.writeBuf d n x).err = s.err := rfl
@[simp] theorem State.writeBuf_doneie : (s.writeBuf d n x).doneie = s.doneie := rfl
@[simp] theorem State.writeBuf_errie : (s.writeBuf d n x).errie = s.errie := rfl
@[simp] theorem State.writeBuf_faults : (s.writeBuf d n x).faults = s.faults := rfl
@[simp] theorem State.writeBuf_rst : (s.writeBuf d n x).rst = s.rst := rfl
@[simp] theorem State.writeBuf_hits : (s.writeBuf d n x).hits = s.hits := rfl
@[simp] theorem State.writeBuf_wait : (s.writeBuf d n x).wait = s.wait := rfl
@[simp] theorem State.writeBuf_draws : (s.writeBuf d n x).draws = s.draws := rfl
@[simp] theorem State.writeBuf_resets : (s.writeBuf d n x).resets = s.resets := rfl
@[simp] theorem State.writeBuf_host : (s.writeBuf d n x).host = s.host := rfl
@[simp] theorem State.writeBuf_reads : (s.writeBuf d n x).reads = s.reads := rfl

end writeBuf

section setCnt

variable (s : State) (c : Nat)

@[simp] theorem State.setCnt_v : (s.setCnt c).v = s.v := rfl
@[simp] theorem State.setCnt_cnt : (s.setCnt c).cnt = BitVec.ofNat 129 c := rfl
@[simp] theorem State.setCnt_out : (s.setCnt c).out = s.out := rfl
@[simp] theorem State.setCnt_outlen : (s.setCnt c).outlen = s.outlen := rfl
@[simp] theorem State.setCnt_pend : (s.setCnt c).pend = s.pend := rfl
@[simp] theorem State.setCnt_done : (s.setCnt c).done = s.done := rfl
@[simp] theorem State.setCnt_errs : (s.setCnt c).errs = s.errs := rfl
@[simp] theorem State.setCnt_ovr : (s.setCnt c).ovr = s.ovr := rfl
@[simp] theorem State.setCnt_err : (s.setCnt c).err = s.err := rfl
@[simp] theorem State.setCnt_doneie : (s.setCnt c).doneie = s.doneie := rfl
@[simp] theorem State.setCnt_errie : (s.setCnt c).errie = s.errie := rfl
@[simp] theorem State.setCnt_faults : (s.setCnt c).faults = s.faults := rfl
@[simp] theorem State.setCnt_rst : (s.setCnt c).rst = s.rst := rfl
@[simp] theorem State.setCnt_hits : (s.setCnt c).hits = s.hits := rfl
@[simp] theorem State.setCnt_wait : (s.setCnt c).wait = s.wait := rfl
@[simp] theorem State.setCnt_draws : (s.setCnt c).draws = s.draws := rfl
@[simp] theorem State.setCnt_resets : (s.setCnt c).resets = s.resets := rfl
@[simp] theorem State.setCnt_host : (s.setCnt c).host = s.host := rfl
@[simp] theorem State.setCnt_reads : (s.setCnt c).reads = s.reads := rfl
@[simp] theorem State.setCnt_buf (q : Reg) : (s.setCnt c).buf q = s.buf q := rfl

end setCnt

section emit

variable (s : State) (t : List Byte)

@[simp] theorem State.emit_v : (s.emit t).v = s.v := rfl
@[simp] theorem State.emit_cnt : (s.emit t).cnt = s.cnt := rfl
@[simp] theorem State.emit_out : (s.emit t).out = padOut t := rfl
@[simp] theorem State.emit_outlen : (s.emit t).outlen = ⟨min t.length 143, by omega⟩ := rfl
@[simp] theorem State.emit_pend : (s.emit t).pend = s.pend := rfl
@[simp] theorem State.emit_done : (s.emit t).done = s.done := rfl
@[simp] theorem State.emit_errs : (s.emit t).errs = s.errs := rfl
@[simp] theorem State.emit_ovr : (s.emit t).ovr = s.ovr := rfl
@[simp] theorem State.emit_err : (s.emit t).err = s.err := rfl
@[simp] theorem State.emit_doneie : (s.emit t).doneie = s.doneie := rfl
@[simp] theorem State.emit_errie : (s.emit t).errie = s.errie := rfl
@[simp] theorem State.emit_faults : (s.emit t).faults = s.faults := rfl
@[simp] theorem State.emit_rst : (s.emit t).rst = s.rst := rfl
@[simp] theorem State.emit_hits : (s.emit t).hits = s.hits := rfl
@[simp] theorem State.emit_wait : (s.emit t).wait = s.wait := rfl
@[simp] theorem State.emit_draws : (s.emit t).draws = s.draws := rfl
@[simp] theorem State.emit_resets : (s.emit t).resets = s.resets := rfl
@[simp] theorem State.emit_host : (s.emit t).host = s.host := rfl
@[simp] theorem State.emit_reads : (s.emit t).reads = s.reads := rfl
@[simp] theorem State.emit_buf (q : Reg) : (s.emit t).buf q = s.buf q := rfl

end emit

section complete

variable (s : State) (e : BitVec 4)

@[simp] theorem State.complete_v : (s.complete e).v = s.v := rfl
@[simp] theorem State.complete_cnt : (s.complete e).cnt = s.cnt := rfl
@[simp] theorem State.complete_out : (s.complete e).out = s.out := rfl
@[simp] theorem State.complete_outlen : (s.complete e).outlen = s.outlen := rfl
@[simp] theorem State.complete_pend : (s.complete e).pend = none := rfl
@[simp] theorem State.complete_done : (s.complete e).done = true := rfl
@[simp] theorem State.complete_errs : (s.complete e).errs = (s.errs || e != 0) := rfl
@[simp] theorem State.complete_ovr : (s.complete e).ovr = s.ovr := rfl
@[simp] theorem State.complete_err : (s.complete e).err = e := rfl
@[simp] theorem State.complete_doneie : (s.complete e).doneie = s.doneie := rfl
@[simp] theorem State.complete_errie : (s.complete e).errie = s.errie := rfl
@[simp] theorem State.complete_faults : (s.complete e).faults = s.faults := rfl
@[simp] theorem State.complete_rst : (s.complete e).rst = s.rst := rfl
@[simp] theorem State.complete_hits : (s.complete e).hits = Vector.replicate 8 false := rfl
@[simp] theorem State.complete_wait : (s.complete e).wait = s.wait := rfl
@[simp] theorem State.complete_draws : (s.complete e).draws = s.draws + 1 := rfl
@[simp] theorem State.complete_resets : (s.complete e).resets = s.resets := rfl
@[simp] theorem State.complete_host : (s.complete e).host = s.host := rfl
@[simp] theorem State.complete_reads : (s.complete e).reads = s.reads := rfl
@[simp] theorem State.complete_buf (q : Reg) : (s.complete e).buf q = s.buf q := rfl

end complete

section hazardWrite

variable (s : State) (i : Reg) (w : Vector Bool 16)

@[simp] theorem State.hazardWrite_cnt : (s.hazardWrite i w).cnt = s.cnt := rfl
@[simp] theorem State.hazardWrite_out : (s.hazardWrite i w).out = s.out := rfl
@[simp] theorem State.hazardWrite_outlen : (s.hazardWrite i w).outlen = s.outlen := rfl
@[simp] theorem State.hazardWrite_pend : (s.hazardWrite i w).pend = s.pend := rfl
@[simp] theorem State.hazardWrite_done : (s.hazardWrite i w).done = s.done := rfl
@[simp] theorem State.hazardWrite_errs : (s.hazardWrite i w).errs = s.errs := rfl
@[simp] theorem State.hazardWrite_ovr : (s.hazardWrite i w).ovr = s.ovr := rfl
@[simp] theorem State.hazardWrite_err : (s.hazardWrite i w).err = s.err := rfl
@[simp] theorem State.hazardWrite_doneie : (s.hazardWrite i w).doneie = s.doneie := rfl
@[simp] theorem State.hazardWrite_errie : (s.hazardWrite i w).errie = s.errie := rfl
@[simp] theorem State.hazardWrite_faults : (s.hazardWrite i w).faults = { s.faults with hostHazard := true } := rfl
@[simp] theorem State.hazardWrite_rst : (s.hazardWrite i w).rst = s.rst := rfl
@[simp] theorem State.hazardWrite_hits : (s.hazardWrite i w).hits = s.hits.set i.val true := rfl
@[simp] theorem State.hazardWrite_wait : (s.hazardWrite i w).wait = s.wait := rfl
@[simp] theorem State.hazardWrite_draws : (s.hazardWrite i w).draws = s.draws + 1 := rfl
@[simp] theorem State.hazardWrite_resets : (s.hazardWrite i w).resets = s.resets := rfl
@[simp] theorem State.hazardWrite_host : (s.hazardWrite i w).host = s.host := rfl
@[simp] theorem State.hazardWrite_reads : (s.hazardWrite i w).reads = s.reads := rfl

end hazardWrite

section refuseAccess

variable (s : State)

@[simp] theorem State.refuseAccess_v : s.refuseAccess.v = s.v := rfl
@[simp] theorem State.refuseAccess_cnt : s.refuseAccess.cnt = s.cnt := rfl
@[simp] theorem State.refuseAccess_out : s.refuseAccess.out = s.out := rfl
@[simp] theorem State.refuseAccess_outlen : s.refuseAccess.outlen = s.outlen := rfl
@[simp] theorem State.refuseAccess_pend : s.refuseAccess.pend = s.pend := rfl
@[simp] theorem State.refuseAccess_done : s.refuseAccess.done = s.done := rfl
@[simp] theorem State.refuseAccess_errs : s.refuseAccess.errs = s.errs := rfl
@[simp] theorem State.refuseAccess_ovr : s.refuseAccess.ovr = s.ovr := rfl
@[simp] theorem State.refuseAccess_err : s.refuseAccess.err = s.err := rfl
@[simp] theorem State.refuseAccess_doneie : s.refuseAccess.doneie = s.doneie := rfl
@[simp] theorem State.refuseAccess_errie : s.refuseAccess.errie = s.errie := rfl
@[simp] theorem State.refuseAccess_faults : s.refuseAccess.faults = { s.faults with hostAccessRefused := true } := rfl
@[simp] theorem State.refuseAccess_rst : s.refuseAccess.rst = s.rst := rfl
@[simp] theorem State.refuseAccess_hits : s.refuseAccess.hits = s.hits := rfl
@[simp] theorem State.refuseAccess_wait : s.refuseAccess.wait = s.wait := rfl
@[simp] theorem State.refuseAccess_draws : s.refuseAccess.draws = s.draws := rfl
@[simp] theorem State.refuseAccess_resets : s.refuseAccess.resets = s.resets := rfl
@[simp] theorem State.refuseAccess_host : s.refuseAccess.host = s.host := rfl
@[simp] theorem State.refuseAccess_reads : s.refuseAccess.reads = s.reads := rfl
@[simp] theorem State.refuseAccess_buf (q : Reg) : s.refuseAccess.buf q = s.buf q := rfl

end refuseAccess

section reply

variable (s : State) (w : Word)

@[simp] theorem State.reply_v : (s.reply w).v = s.v := rfl
@[simp] theorem State.reply_cnt : (s.reply w).cnt = s.cnt := rfl
@[simp] theorem State.reply_out : (s.reply w).out = s.out := rfl
@[simp] theorem State.reply_outlen : (s.reply w).outlen = s.outlen := rfl
@[simp] theorem State.reply_pend : (s.reply w).pend = s.pend := rfl
@[simp] theorem State.reply_done : (s.reply w).done = s.done := rfl
@[simp] theorem State.reply_errs : (s.reply w).errs = s.errs := rfl
@[simp] theorem State.reply_ovr : (s.reply w).ovr = s.ovr := rfl
@[simp] theorem State.reply_err : (s.reply w).err = s.err := rfl
@[simp] theorem State.reply_doneie : (s.reply w).doneie = s.doneie := rfl
@[simp] theorem State.reply_errie : (s.reply w).errie = s.errie := rfl
@[simp] theorem State.reply_faults : (s.reply w).faults = s.faults := rfl
@[simp] theorem State.reply_rst : (s.reply w).rst = s.rst := rfl
@[simp] theorem State.reply_hits : (s.reply w).hits = s.hits := rfl
@[simp] theorem State.reply_wait : (s.reply w).wait = s.wait := rfl
@[simp] theorem State.reply_draws : (s.reply w).draws = s.draws := rfl
@[simp] theorem State.reply_resets : (s.reply w).resets = s.resets := rfl
@[simp] theorem State.reply_host : (s.reply w).host = s.host := rfl
@[simp] theorem State.reply_reads : (s.reply w).reads = w :: s.reads := rfl
@[simp] theorem State.reply_buf (q : Reg) : (s.reply w).buf q = s.buf q := rfl

end reply

section replyFree

variable (s : State)

@[simp] theorem State.replyFree_v : s.replyFree.v = s.v := rfl
@[simp] theorem State.replyFree_cnt : s.replyFree.cnt = s.cnt := rfl
@[simp] theorem State.replyFree_out : s.replyFree.out = s.out := rfl
@[simp] theorem State.replyFree_outlen : s.replyFree.outlen = s.outlen := rfl
@[simp] theorem State.replyFree_pend : s.replyFree.pend = s.pend := rfl
@[simp] theorem State.replyFree_done : s.replyFree.done = s.done := rfl
@[simp] theorem State.replyFree_errs : s.replyFree.errs = s.errs := rfl
@[simp] theorem State.replyFree_ovr : s.replyFree.ovr = s.ovr := rfl
@[simp] theorem State.replyFree_err : s.replyFree.err = s.err := rfl
@[simp] theorem State.replyFree_doneie : s.replyFree.doneie = s.doneie := rfl
@[simp] theorem State.replyFree_errie : s.replyFree.errie = s.errie := rfl
@[simp] theorem State.replyFree_faults : s.replyFree.faults = s.faults := rfl
@[simp] theorem State.replyFree_rst : s.replyFree.rst = s.rst := rfl
@[simp] theorem State.replyFree_hits : s.replyFree.hits = s.hits := rfl
@[simp] theorem State.replyFree_wait : s.replyFree.wait = s.wait := rfl
@[simp] theorem State.replyFree_draws : s.replyFree.draws = s.draws + 1 := rfl
@[simp] theorem State.replyFree_resets : s.replyFree.resets = s.resets := rfl
@[simp] theorem State.replyFree_host : s.replyFree.host = s.host := rfl
@[simp] theorem State.replyFree_reads : s.replyFree.reads = Config.busyWord s.draws :: s.reads := rfl
@[simp] theorem State.replyFree_buf (q : Reg) : s.replyFree.buf q = s.buf q := rfl

end replyFree

section clearStatus

variable (s : State) (w : Word)

@[simp] theorem State.clearStatus_v : (s.clearStatus w).v = s.v := rfl
@[simp] theorem State.clearStatus_cnt : (s.clearStatus w).cnt = s.cnt := rfl
@[simp] theorem State.clearStatus_out : (s.clearStatus w).out = s.out := rfl
@[simp] theorem State.clearStatus_outlen : (s.clearStatus w).outlen = s.outlen := rfl
@[simp] theorem State.clearStatus_pend : (s.clearStatus w).pend = s.pend := rfl
@[simp] theorem State.clearStatus_done : (s.clearStatus w).done = (s.done && !w.getLsbD 1) := rfl
@[simp] theorem State.clearStatus_errs : (s.clearStatus w).errs = (s.errs && !w.getLsbD 8) := rfl
@[simp] theorem State.clearStatus_ovr : (s.clearStatus w).ovr = (s.ovr && !w.getLsbD 9) := rfl
@[simp] theorem State.clearStatus_err : (s.clearStatus w).err = s.err := rfl
@[simp] theorem State.clearStatus_doneie : (s.clearStatus w).doneie = s.doneie := rfl
@[simp] theorem State.clearStatus_errie : (s.clearStatus w).errie = s.errie := rfl
@[simp] theorem State.clearStatus_faults : (s.clearStatus w).faults = s.faults := rfl
@[simp] theorem State.clearStatus_rst : (s.clearStatus w).rst = s.rst := rfl
@[simp] theorem State.clearStatus_hits : (s.clearStatus w).hits = s.hits := rfl
@[simp] theorem State.clearStatus_wait : (s.clearStatus w).wait = s.wait := rfl
@[simp] theorem State.clearStatus_draws : (s.clearStatus w).draws = s.draws := rfl
@[simp] theorem State.clearStatus_resets : (s.clearStatus w).resets = s.resets := rfl
@[simp] theorem State.clearStatus_host : (s.clearStatus w).host = s.host := rfl
@[simp] theorem State.clearStatus_reads : (s.clearStatus w).reads = s.reads := rfl
@[simp] theorem State.clearStatus_buf (q : Reg) : (s.clearStatus w).buf q = s.buf q := rfl

end clearStatus

section setCtrl

variable (s : State) (w : Word)

@[simp] theorem State.setCtrl_v : (s.setCtrl w).v = s.v := rfl
@[simp] theorem State.setCtrl_cnt : (s.setCtrl w).cnt = s.cnt := rfl
@[simp] theorem State.setCtrl_out : (s.setCtrl w).out = s.out := rfl
@[simp] theorem State.setCtrl_outlen : (s.setCtrl w).outlen = s.outlen := rfl
@[simp] theorem State.setCtrl_pend : (s.setCtrl w).pend = s.pend := rfl
@[simp] theorem State.setCtrl_done : (s.setCtrl w).done = s.done := rfl
@[simp] theorem State.setCtrl_errs : (s.setCtrl w).errs = s.errs := rfl
@[simp] theorem State.setCtrl_ovr : (s.setCtrl w).ovr = s.ovr := rfl
@[simp] theorem State.setCtrl_err : (s.setCtrl w).err = s.err := rfl
@[simp] theorem State.setCtrl_doneie : (s.setCtrl w).doneie = w.getLsbD 0 := rfl
@[simp] theorem State.setCtrl_errie : (s.setCtrl w).errie = w.getLsbD 1 := rfl
@[simp] theorem State.setCtrl_faults : (s.setCtrl w).faults = s.faults := rfl
@[simp] theorem State.setCtrl_rst : (s.setCtrl w).rst = s.rst := rfl
@[simp] theorem State.setCtrl_hits : (s.setCtrl w).hits = s.hits := rfl
@[simp] theorem State.setCtrl_wait : (s.setCtrl w).wait = s.wait := rfl
@[simp] theorem State.setCtrl_draws : (s.setCtrl w).draws = s.draws := rfl
@[simp] theorem State.setCtrl_resets : (s.setCtrl w).resets = s.resets := rfl
@[simp] theorem State.setCtrl_host : (s.setCtrl w).host = s.host := rfl
@[simp] theorem State.setCtrl_reads : (s.setCtrl w).reads = s.reads := rfl
@[simp] theorem State.setCtrl_buf (q : Reg) : (s.setCtrl w).buf q = s.buf q := rfl

end setCtrl

section writeData

variable (s : State) (i : Reg) (j : Fin 4) (w : Word)

@[simp] theorem State.writeData_cnt : (s.writeData i j w).cnt = s.cnt := rfl
@[simp] theorem State.writeData_out : (s.writeData i j w).out = s.out := rfl
@[simp] theorem State.writeData_outlen : (s.writeData i j w).outlen = s.outlen := rfl
@[simp] theorem State.writeData_pend : (s.writeData i j w).pend = s.pend := rfl
@[simp] theorem State.writeData_done : (s.writeData i j w).done = s.done := rfl
@[simp] theorem State.writeData_errs : (s.writeData i j w).errs = s.errs := rfl
@[simp] theorem State.writeData_ovr : (s.writeData i j w).ovr = s.ovr := rfl
@[simp] theorem State.writeData_err : (s.writeData i j w).err = s.err := rfl
@[simp] theorem State.writeData_doneie : (s.writeData i j w).doneie = s.doneie := rfl
@[simp] theorem State.writeData_errie : (s.writeData i j w).errie = s.errie := rfl
@[simp] theorem State.writeData_faults : (s.writeData i j w).faults = s.faults := rfl
@[simp] theorem State.writeData_rst : (s.writeData i j w).rst = s.rst := rfl
@[simp] theorem State.writeData_hits : (s.writeData i j w).hits = s.hits := rfl
@[simp] theorem State.writeData_wait : (s.writeData i j w).wait = s.wait := rfl
@[simp] theorem State.writeData_draws : (s.writeData i j w).draws = s.draws := rfl
@[simp] theorem State.writeData_resets : (s.writeData i j w).resets = s.resets := rfl
@[simp] theorem State.writeData_host : (s.writeData i j w).host = s.host := rfl
@[simp] theorem State.writeData_reads : (s.writeData i j w).reads = s.reads := rfl

end writeData

section placeCommand

variable (s : State) (w : Word)

@[simp] theorem State.placeCommand_v : (s.placeCommand w).v = s.v := rfl
@[simp] theorem State.placeCommand_cnt : (s.placeCommand w).cnt = s.cnt := rfl
@[simp] theorem State.placeCommand_out : (s.placeCommand w).out = s.out := rfl
@[simp] theorem State.placeCommand_outlen : (s.placeCommand w).outlen = s.outlen := rfl
@[simp] theorem State.placeCommand_pend : (s.placeCommand w).pend = some w := rfl
@[simp] theorem State.placeCommand_done : (s.placeCommand w).done = s.done := rfl
@[simp] theorem State.placeCommand_errs : (s.placeCommand w).errs = s.errs := rfl
@[simp] theorem State.placeCommand_ovr : (s.placeCommand w).ovr = s.ovr := rfl
@[simp] theorem State.placeCommand_err : (s.placeCommand w).err = s.err := rfl
@[simp] theorem State.placeCommand_doneie : (s.placeCommand w).doneie = s.doneie := rfl
@[simp] theorem State.placeCommand_errie : (s.placeCommand w).errie = s.errie := rfl
@[simp] theorem State.placeCommand_faults : (s.placeCommand w).faults = s.faults := rfl
@[simp] theorem State.placeCommand_rst : (s.placeCommand w).rst = false := rfl
@[simp] theorem State.placeCommand_hits : (s.placeCommand w).hits = s.hits := rfl
@[simp] theorem State.placeCommand_wait : (s.placeCommand w).wait = 0 := rfl
@[simp] theorem State.placeCommand_draws : (s.placeCommand w).draws = s.draws := rfl
@[simp] theorem State.placeCommand_resets : (s.placeCommand w).resets = s.resets := rfl
@[simp] theorem State.placeCommand_host : (s.placeCommand w).host = s.host := rfl
@[simp] theorem State.placeCommand_reads : (s.placeCommand w).reads = s.reads := rfl
@[simp] theorem State.placeCommand_buf (q : Reg) : (s.placeCommand w).buf q = s.buf q := rfl

end placeCommand

end Sys2Proof.Machine
end

