-- ==== Sys2Proof/Laws/Ops.lean ====
section
/-! SUPPORT. One spec lemma per shared operation: what an operand read gives, what a register or OUT write leaves, when an
access is accepted. -/

namespace Sys2Proof.Machine

section registers

@[simp] theorem State.setBuf_self (s : State) (d : Reg) (b : Buffer) : (s.setBuf d b).buf d = b := by
  simp [State.buf, State.setBuf]

theorem State.setBuf_other (s : State) {d r : Reg} (b : Buffer) (h : r ≠ d) : (s.setBuf d b).buf r = s.buf r := by
  have : d.val ≠ r.val := fun e => h (Fin.ext e.symm)
  simp [State.buf, State.setBuf, this]

theorem State.setBuf_buf (s : State) (d r : Reg) (b : Buffer) :
    (s.setBuf d b).buf r = if r = d then b else s.buf r := by
  split
  · rename_i h; rw [h, State.setBuf_self]
  · rename_i h; exact State.setBuf_other s b h

@[simp] theorem Buffer.byte_mk (n : Fin 17) (f : Fin 16 → Byte) (w : Vector Bool 16) (k : Fin 16) :
    Buffer.byte ⟨n, lanes f, w⟩ k = f k := by
  simp [Buffer.byte, lanes]

@[simp] theorem Buffer.written_all (n : Fin 17) (x : Vector Byte 16) (k : Fin 16) :
    Buffer.written ⟨n, x, Vector.replicate 16 true⟩ k = true := by
  simp [Buffer.written]

@[simp] theorem Buffer.written_wrWithWord (n : Fin 17) (x : Vector Byte 16) (b : Buffer) (j : Fin 4) (k : Fin 16) :
    Buffer.written ⟨n, x, b.wrWithWord j⟩ k = (decide (k.val / 4 = j.val) || b.written k) := by
  simp [Buffer.written, Buffer.wrWithWord]

end registers

section operands

variable {s : State} {r : Reg}

theorem State.view_len (slot : Nat) (h : s.hazard = false) : (s.view slot r).len = (s.buf r).len := by
  simp [State.view, h]

/-- What an operand byte is in every case. -/
theorem State.view_byte (s : State) (slot : Nat) (r : Reg) (k : Fin 16) : (s.view slot r).byte k =
    if s.hazard || !(s.buf r).written k then Config.operandByte s.draws slot k.val else (s.buf r).byte k := by
  simp [State.view, View.byte]

/-- A written byte of an operand reads as the register holds it. -/
theorem State.view_byte_written (slot : Nat) (h : s.hazard = false) {k : Fin 16} (hw : (s.buf r).written k = true) :
    (s.view slot r).byte k = (s.buf r).byte k := by
  simp [State.view_byte, h, hw]

theorem Buffer.ready_iff (b : Buffer) : b.ready = true ↔ ∀ k : Fin 16, k.val < b.len.val → b.written k = true := by
  simp only [Buffer.ready, List.all_eq_true, List.mem_finRange, true_implies, Bool.or_eq_true, decide_eq_true_eq]
  exact forall_congr' fun k => ⟨fun h hk => h.resolve_left (by omega), fun h => by
    by_cases hk : b.len.val ≤ k.val
    · exact .inl hk
    · exact .inr (h (by omega))⟩

@[simp] theorem Buffer.bytes_length (b : Buffer) : b.bytes.length = b.len.val := by
  have := b.len.isLt
  simp [Buffer.bytes]; omega

@[simp] theorem View.bytes_length (x : View) : x.bytes.length = x.len.val := by
  have := x.len.isLt
  simp [View.bytes]; omega

theorem Buffer.bytes_getElem (b : Buffer) (k : Nat) (h : k < b.bytes.length) :
    b.bytes[k] = b.byte ⟨k, by simp at h; omega⟩ := by
  simp [Buffer.bytes, Buffer.byte]

theorem View.bytes_getElem (x : View) (k : Nat) (h : k < x.bytes.length) :
    x.bytes[k] = x.byte ⟨k, by simp at h; omega⟩ := by
  simp [View.bytes, View.byte]

/-- A command reads the value of a register whose bytes were written. -/
theorem State.view_bytes (slot : Nat) (h : s.hazard = false) (hr : (s.buf r).ready = true) :
    (s.view slot r).bytes = (s.buf r).bytes := by
  apply List.ext_getElem
  · simp [State.view_len slot h]
  · intro k h1 h2
    rw [View.bytes_getElem, Buffer.bytes_getElem]
    exact State.view_byte_written slot h ((Buffer.ready_iff _).1 hr _ (by simpa using h2))

/-- UnwrittenOperand is noted exactly when a byte of the register's value was never written. -/
theorem State.readsUnwritten_eq (slot : Nat) (h : s.hazard = false) : s.readsUnwritten slot r = !(s.buf r).ready := by
  rw [Bool.eq_iff_iff]
  simp only [State.readsUnwritten, Buffer.ready, State.view_len slot h, List.any_eq_true, Bool.not_eq_true',
    List.all_eq_false, Bool.and_eq_true, Bool.or_eq_true, decide_eq_true_eq, Bool.not_eq_true', not_or, not_le,
    Bool.not_eq_true]

/-- Reading written bytes leaves the whole state. -/
theorem State.noteRead_ready (slot : Nat) (h : s.hazard = false) (hr : (s.buf r).ready = true) :
    s.noteRead slot r = s := by
  simp only [State.noteRead, State.readsUnwritten_eq slot h, hr, Bool.not_true, Bool.or_false]

@[simp] theorem State.noteRead_hazard (s : State) (slot : Nat) (r : Reg) : (s.noteRead slot r).hazard = s.hazard := rfl

@[simp] theorem State.noteRead_hit (s : State) (slot : Nat) (r q : Reg) : (s.noteRead slot r).hit q = s.hit q := rfl

@[simp] theorem State.noteRead_view (s : State) (slot slot' : Nat) (r r' : Reg) :
    (s.noteRead slot r).view slot' r' = s.view slot' r' := rfl

@[simp] theorem State.noteRead_readsUnwritten (s : State) (slot slot' : Nat) (r r' : Reg) :
    (s.noteRead slot r).readsUnwritten slot' r' = s.readsUnwritten slot' r' := rfl

end operands

section writes

theorem State.hit_eq_false {s : State} (h : s.hazard = false) (d : Reg) : s.hit d = false := by
  simp only [State.hazard, List.any_eq_false, id] at h
  have hm : s.hits[d] ∈ s.hits.toList := by simp
  simpa [State.hit] using h _ hm

/-- The destination holds the result and has every byte written. -/
theorem State.writeBuf_self {s : State} (h : s.hazard = false) (d : Reg) (n : Fin 17) (x : Vector Byte 16) :
    (s.writeBuf d n x).buf d = ⟨n, x, Vector.replicate 16 true⟩ := by
  simp [State.writeBuf, State.hit_eq_false h d]

/-- No other register changes. -/
theorem State.writeBuf_other (s : State) {d r : Reg} (n : Fin 17) (x : Vector Byte 16) (h : r ≠ d) :
    (s.writeBuf d n x).buf r = s.buf r := State.setBuf_other s _ h

theorem lanes_getElem (f : Fin 16 → Byte) (k : Fin 16) : (lanes f)[k] = f k := by
  simp [lanes]

theorem resultLanes_getElem (n : Fin 17) (f : Fin 16 → Byte) (k : Fin 16) :
    (resultLanes n f)[k] = if k.val < n.val then f k else 0x00 := lanes_getElem _ k

@[simp] theorem Buffer.byte_resultLanes (m n : Fin 17) (f : Fin 16 → Byte) (w : Vector Bool 16) (k : Fin 16) :
    Buffer.byte ⟨m, resultLanes n f, w⟩ k = if k.val < n.val then f k else 0x00 := resultLanes_getElem n f k

theorem padOut_getElem (t : List Byte) (k : Fin 143) : (padOut t)[k] = t.getD k.val 0 := by
  have hk := k.isLt
  have h : (padOut t)[k] = ((t ++ List.replicate 143 0).take 143)[k.val]'(by simp) := rfl
  rw [h, List.getElem_take, List.getD_eq_getElem?_getD]
  by_cases hl : k.val < t.length
  · rw [List.getElem_append_left hl]; simp [hl]
  · rw [List.getElem_append_right (by omega), List.getElem_replicate]
    simp [List.getElem?_eq_none (by omega : t.length ≤ k.val)]

/-- OUT read up to OUTLEN is the string emitted, when it fits (spec/43_encoder.md R107). -/
theorem State.emit_string (s : State) (t : List Byte) (h : t.length ≤ 143) :
    (s.emit t).out.toList.take (s.emit t).outlen.val = t := by
  have h1 : (s.emit t).out.toList = (t ++ List.replicate 143 0).take 143 := rfl
  rw [h1, State.emit_outlen]
  simp [List.take_take, h]

@[simp] theorem State.complete_hazard (s : State) (e : BitVec 4) : (s.complete e).hazard = false := by
  simp [State.hazard]

@[simp] theorem State.complete_busy (s : State) (e : BitVec 4) : (s.complete e).busy = false := rfl

@[simp] theorem State.hazardWrite_hazard (s : State) (i : Reg) (w : Vector Bool 16) : (s.hazardWrite i w).hazard = true := by
  simp only [State.hazard, State.hazardWrite_hits, List.any_eq_true, id]
  exact ⟨true, by simp [Vector.mem_set], rfl⟩

theorem State.hazardWrite_other (s : State) {i r : Reg} (w : Vector Bool 16) (h : r ≠ i) :
    (s.hazardWrite i w).buf r = s.buf r := State.setBuf_other s _ h

end writes

section port

/-- A CMD write while a command is pending sets OVR and nothing else (spec/60_exceptions.md R111). -/
theorem State.submit_busy {s : State} (w : Word) (h : s.busy = true) : s.submit w = { s with ovr := true } := by
  simp [State.submit, h]

/-- A CMD write to an idle engine is accepted (spec/40_command_execution.md R78). -/
theorem State.submit_idle {s : State} (w : Word) (h : s.busy = false) :
    s.submit w = { s with pend := some w, wait := Config.latency s.draws, draws := s.draws + 1 } := by
  simp [State.submit, h]

/-- What a LEN write does: the legal value is stored, any other is ignored (spec/10_state.md R37). -/
theorem State.writeLen_cases (s : State) (i : Reg) (w : Word) :
    (∃ h : w.toNat ≤ 16, s.writeLen i w = s.setBuf i { s.buf i with len := ⟨w.toNat, by omega⟩ }) ∨
      (16 < w.toNat ∧ s.writeLen i w = s) := by
  by_cases h : w.toNat ≤ 16
  · exact .inl ⟨h, by simp [State.writeLen, h]⟩
  · exact .inr ⟨by omega, by simp [State.writeLen, h]⟩

/-- A write of a buffer register while no command is pending. -/
theorem State.hostWrite_len {s : State} (h : s.busy = false) (i : Reg) (w : Word) :
    s.hostWrite (.len i) w = s.writeLen i w := by
  simp [State.hostWrite, h]

theorem State.hostWrite_data {s : State} (h : s.busy = false) (i : Reg) (j : Fin 4) (w : Word) :
    s.hostWrite (.data i j) w = s.writeData i j w := by
  simp [State.hostWrite, h]

/-- A write of a buffer register while a command is pending is a HostHazard (spec/70_reset_and_hazards.md R133). -/
theorem State.hostWrite_len_busy {s : State} (h : s.busy = true) (i : Reg) (w : Word) :
    s.hostWrite (.len i) w = s.hazardWrite i (s.buf i).wr := by
  simp [State.hostWrite, h]

theorem State.hostWrite_data_busy {s : State} (h : s.busy = true) (i : Reg) (j : Fin 4) (w : Word) :
    s.hostWrite (.data i j) w = s.hazardWrite i ((s.buf i).wrWithWord j) := by
  simp [State.hostWrite, h]

/-- The four bytes of a packed word, byte 0 in bits 31:24 (spec/20_memory.md R52). -/
theorem packWord_byte (b : Fin 4 → Byte) (c : Fin 4) : (packWord b).extractLsb' (24 - 8 * c.val) 8 = b c := by
  apply BitVec.eq_of_getLsbD_eq
  intro i hi
  rw [BitVec.getLsbD_extractLsb']
  simp only [packWord, hi, decide_true, Bool.true_and, BitVec.getLsbD_append]
  fin_cases c
  · simp [show ¬ (24 + i < 8) by omega, show ¬ (24 + i - 8 < 8) by omega, show ¬ (24 + i - 8 - 8 < 8) by omega,
      show 24 + i - 8 - 8 - 8 = i by omega]
  · simp [show ¬ (16 + i < 8) by omega, show ¬ (16 + i - 8 < 8) by omega,
      show 16 + i - 8 - 8 = i by omega]
    omega
  · simp [show ¬ (8 + i < 8) by omega, hi]
  · simp [hi]

/-- What an access does: nothing outside the window, a refusal, a read, or a write. -/
theorem State.hostAccess_cases (s : State) (a : Access) :
    (a.place.offset? = none ∧ s.hostAccess a = s) ∨
    ∃ off, a.place.offset? = some off ∧
      ((s.accessDefined a.width off = false ∧ s.hostAccess a = s.refuseAccess) ∨
       (s.accessDefined a.width off = true ∧ a.kind = .read ∧ s.hostAccess a = s.hostRead (regAt off)) ∨
       (s.accessDefined a.width off = true ∧ ∃ w, a.kind = .write w ∧ s.hostAccess a = s.hostWrite (regAt off) w)) := by
  rcases hp : a.place.offset? with _ | off
  · exact .inl ⟨rfl, by simp [State.hostAccess, hp]⟩
  · refine .inr ⟨off, rfl, ?_⟩
    rcases hd : s.accessDefined a.width off with _ | _
    · exact .inl ⟨rfl, by simp [State.hostAccess, hp, hd]⟩
    · rcases hk : a.kind with _ | w
      · exact .inr (.inl ⟨rfl, rfl, by simp [State.hostAccess, hp, hd, hk]⟩)
      · exact .inr (.inr ⟨rfl, w, rfl, by simp [State.hostAccess, hp, hd, hk]⟩)

end port

end Sys2Proof.Machine
end

