-- ==== Sys2Proof/Laws/Render.lean ====
section
/-! SUPPORT. The values commands compute: the integer view and the count, the 16-bit groups, the lengths of the strings, and
the run of zero groups FSHEX finds. -/

namespace Sys2Proof.Machine

section integers

theorem uint_foldl (d : List Byte) (acc : Nat) :
    d.foldl (fun acc b => acc * 256 + b.toNat) acc = acc * 256 ^ d.length + uint d := by
  induction d generalizing acc with
  | nil => simp [uint]
  | cons x xs ih =>
    simp only [List.foldl_cons, uint, List.length_cons]
    rw [ih, ih (0 * 256 + x.toNat)]; ring

@[simp] theorem uint_nil : uint [] = 0 := rfl

/-- Byte 0 is the most significant (spec/00_scope.md R10). -/
theorem uint_cons (x : Byte) (xs : List Byte) : uint (x :: xs) = x.toNat * 256 ^ xs.length + uint xs := by
  rw [uint, List.foldl_cons, uint_foldl]; simp

theorem uint_lt (d : List Byte) : uint d < 256 ^ d.length := by
  induction d with
  | nil => simp
  | cons x xs ih =>
    rw [uint_cons, List.length_cons, pow_succ]
    have := x.isLt
    nlinarith

/-- An operand's integer view is below 2^128, for it has at most 16 bytes. -/
theorem view_uint_lt (s : State) (slot : Nat) (r : Reg) : uint (s.view slot r).bytes < 2 ^ 128 := by
  refine lt_of_lt_of_le (uint_lt _) ?_
  rw [View.bytes_length]
  have := (s.view slot r).len.isLt
  calc 256 ^ (s.view slot r).len.val ≤ 256 ^ 16 := Nat.pow_le_pow_right (by decide) (by omega)
    _ = 2 ^ 128 := by norm_num

theorem inclusiveCount_comm (a b : Nat) : inclusiveCount a b = inclusiveCount b a := by
  unfold inclusiveCount; split <;> split <;> omega

/-- The count of two 16-byte values fits CNT (spec/42_cardinality.md R93). -/
theorem inclusiveCount_range {a b : Nat} (ha : a < 2 ^ 128) (hb : b < 2 ^ 128) :
    1 ≤ inclusiveCount a b ∧ inclusiveCount a b ≤ 2 ^ 128 := by
  unfold inclusiveCount; split <;> omega

/-- What CARD writes is the count itself: nothing is cut off. -/
theorem setCnt_inclusiveCount {a b : Nat} (ha : a < 2 ^ 128) (hb : b < 2 ^ 128) (s : State) :
    (s.setCnt (inclusiveCount a b)).cnt.toNat = inclusiveCount a b := by
  have := inclusiveCount_range ha hb
  simp only [State.setCnt, BitVec.toNat_ofNat]
  omega

end integers

section groups

theorem groups_length : ∀ d : List Byte, (groups d).length = d.length / 2
  | [] => rfl
  | [_] => by simp [groups]
  | a :: b :: r => by simp only [groups, List.length_cons, groups_length r]; omega

theorem groups_lt : ∀ d : List Byte, ∀ g ∈ groups d, g < 65536
  | [], g, h => by simp [groups] at h
  | [_], g, h => by simp [groups] at h
  | a :: b :: r, g, h => by
    simp only [groups, List.mem_cons] at h
    rcases h with rfl | h
    · have := a.isLt; have := b.isLt; omega
    · exact groups_lt r g h

/-- Group `g` is bytes `2g` and `2g+1`, the first the high one (spec/20_memory.md R51). -/
theorem groups_eq : ∀ d : List Byte, groups d = (List.range (d.length / 2)).map (groupAt d)
  | [] => rfl
  | [_] => by simp [groups]
  | a :: b :: r => by
    rw [groups, groups_eq r, List.length_cons, List.length_cons, show (r.length + 1 + 1) / 2 = r.length / 2 + 1 by omega,
      List.range_succ_eq_map]
    simp only [List.map_cons, List.map_map]
    congr 1

end groups

section lengths

/-- Parts of at most `n` characters, joined. -/
theorem join_length_le (sep : Byte) (l : List (List Byte)) (n : Nat) (h : ∀ x ∈ l, x.length ≤ n) :
    (join sep l).length ≤ l.length * (n + 1) - 1 := by
  induction l with
  | nil => simp [join]
  | cons x xs ih =>
    cases xs with
    | nil => have := h x (by simp); simp [join]; omega
    | cons y ys =>
      have h1 := h x (by simp)
      have h2 := ih (fun z hz => h z (by simp [hz]))
      simp only [join, List.length_append, List.length_cons] at h2 ⊢
      have : (ys.length + 1 + 1) * (n + 1) = (ys.length + 1) * (n + 1) + (n + 1) := by ring
      have : (ys.length + 1) * (n + 1) ≥ 1 := by nlinarith
      omega

theorem numeral_length_le {b v n : Nat} (hb : 1 < b) (hn : 1 ≤ n) (h : v < b ^ n) : (numeral b v).length ≤ n := by
  unfold numeral
  split
  · simpa using hn
  · simpa using (Nat.digits_length_le_iff hb v).2 h

theorem textBin_length_le {d : List Byte} (h : d.length ≤ 16) : (textBin d).length ≤ 143 := by
  have := join_length_le chSpace (d.map bin8) 8 (by simp [bin8])
  unfold textBin; simp at this; omega

theorem textDec8_length_le (d : List Byte) : (textDec8 d).length ≤ 4 * d.length - 1 := by
  have := join_length_le chDot (d.map fun b => dec b.toNat) 3 (by
    intro x hx; simp at hx; obtain ⟨b, -, rfl⟩ := hx
    exact numeral_length_le (by decide) (by decide) (by have := b.isLt; omega))
  unfold textDec8; simp at this ⊢; omega

theorem textDec16_length_le {d : List Byte} (h : d.length ≤ 16) : (textDec16 d).length ≤ 47 := by
  have := join_length_le chDot ((groups d).map dec) 5 (by
    intro x hx; simp at hx; obtain ⟨b, hb, rfl⟩ := hx
    exact numeral_length_le (by decide) (by decide) (by have := groups_lt d b hb; omega))
  unfold textDec16; split
  · simp
  · simp [groups_length] at this ⊢; omega

theorem textHex_length_le (d : List Byte) : (textHex d).length ≤ 39 := by
  unfold textHex; split
  · simp
  · rename_i h
    have := join_length_le chColon ((groups d).map hex4) 4 (by
      intro x hx; simp at hx; obtain ⟨b, hb, rfl⟩ := hx; simp [hex4])
    simp [groups_length] at this ⊢; omega

theorem hexmin_length_le {g : Nat} (h : g < 65536) : (hexmin g).length ≤ 4 :=
  numeral_length_le (by decide) (by decide) (by omega)

theorem zeroRun_le_length (l : List Nat) : zeroRun l ≤ l.length := by
  induction l with
  | nil => simp [zeroRun]
  | cons x xs ih => cases x <;> simp [zeroRun]; exact ih

theorem longestRun_le {gs : List Nat} {i : Nat} {best : Nat × Nat} {n : Nat} (hn : i + gs.length = n)
    (hb : best.1 + best.2 ≤ n) : (longestRun gs i best).1 + (longestRun gs i best).2 ≤ n := by
  induction gs generalizing i best with
  | nil => simpa [longestRun] using hb
  | cons g gs ih =>
    simp only [longestRun]
    apply ih
    · simp at hn; omega
    · split
      · have := zeroRun_le_length (g :: gs); simp at hn this ⊢; omega
      · exact hb

theorem textGroups_length_le {g : List Nat} (hg : g.length = 8) (hl : ∀ x ∈ g, x < 65536) :
    (textGroups g).length ≤ 39 := by
  have hm (l : List Nat) (h : ∀ x ∈ l, x ∈ g) : (join chColon (l.map hexmin)).length ≤ l.length * 5 - 1 := by
    have := join_length_le chColon (l.map hexmin) 4 (by
      intro x hx; simp at hx; obtain ⟨b, hb, rfl⟩ := hx; exact hexmin_length_le (hl b (h b hb)))
    simpa using this
  unfold textGroups
  simp only
  split
  · have := hm g (fun _ h => h); omega
  · rename_i h2
    have := longestRun_le (gs := g) (i := 0) (best := (0, 0)) (n := 8) (by omega) (by simp)
    have h3 := hm (g.take (longestRun g 0 (0, 0)).1) (fun x hx => List.mem_of_mem_take hx)
    have h4 := hm (g.drop ((longestRun g 0 (0, 0)).1 + (longestRun g 0 (0, 0)).2)) (fun x hx => List.mem_of_mem_drop hx)
    simp only [List.length_append, List.length_cons, List.length_nil]
    simp only [List.length_take, List.length_drop, hg] at h3 h4
    omega

theorem textShex_length_le (d : List Byte) : (textShex d).length ≤ 39 := by
  unfold textShex
  split
  · simp
  · rename_i h
    split
    · have := textDec8_length_le (d.drop 12); simp at this; omega
    · exact textGroups_length_le (by rw [groups_length]; omega) (groups_lt d)

theorem textCnt_length_le (c : BitVec 129) : (textCnt c).length ≤ 39 :=
  numeral_length_le (by decide) (by decide) (by have := c.isLt; norm_num at this ⊢; omega)

end lengths

section run

/-- `zeroRun` is the length of the run of zeros at the head. -/
theorem zeroRun_spec : ∀ l : List Nat, (∀ k, k < zeroRun l → l[k]? = some 0) ∧ l[zeroRun l]? ≠ some 0
  | [] => by simp [zeroRun]
  | 0 :: gs => by
    have := zeroRun_spec gs
    simp only [zeroRun]
    refine ⟨fun k hk => ?_, by simpa using this.2⟩
    cases k with
    | zero => rfl
    | succ k => simpa using this.1 k (by omega)
  | (n + 1) :: gs => by simp [zeroRun]

/-- What `longestRun` keeps true while it scans `g`: no run already seen is longer than the best, none that starts earlier is
as long, and the best is a run. -/
theorem longestRun_spec (g : List Nat) : ∀ (gs : List Nat) (i : Nat) (best : Nat × Nat), gs = g.drop i →
    (∀ j, j < i → zeroRun (g.drop j) ≤ best.2) →
    (∀ j, j < best.1 → zeroRun (g.drop j) < best.2 ∨ best.2 = 0) →
    (best.2 = zeroRun (g.drop best.1) ∨ best.2 = 0) → best.1 ≤ i →
    (∀ j, zeroRun (g.drop j) ≤ (longestRun gs i best).2) ∧
      (∀ j, j < (longestRun gs i best).1 → zeroRun (g.drop j) < (longestRun gs i best).2 ∨ (longestRun gs i best).2 = 0) ∧
      ((longestRun gs i best).2 = zeroRun (g.drop (longestRun gs i best).1) ∨ (longestRun gs i best).2 = 0) := by
  intro gs
  induction gs with
  | nil =>
    intro i best hg h1 h2 h3 h4
    refine ⟨fun j => ?_, h2, h3⟩
    by_cases hj : j < i
    · exact h1 j hj
    · have : g.drop j = [] := by
        rw [List.drop_eq_nil_iff]
        have := List.drop_eq_nil_iff.1 hg.symm
        omega
      rw [this]; simp [zeroRun]
  | cons x xs ih =>
    intro i best hg h1 h2 h3 h4
    simp only [longestRun]
    rw [hg]
    apply ih
    · have := congrArg List.tail hg
      simpa [List.tail_drop] using this
    · intro j hj
      by_cases hlt : best.2 < zeroRun (g.drop i)
      · rw [if_pos hlt]
        by_cases hji : j = i
        · rw [hji]
        · have := h1 j (by omega); simp only at *; omega
      · rw [if_neg hlt]
        by_cases hji : j = i
        · rw [hji]; omega
        · exact h1 j (by omega)
    · intro j hj
      by_cases hlt : best.2 < zeroRun (g.drop i)
      · rw [if_pos hlt] at hj ⊢
        have := h1 j hj; simp only at *; left; omega
      · rw [if_neg hlt] at hj ⊢
        exact h2 j hj
    · split
      · left; rfl
      · exact h3
    · split
      · simp
      · omega

/-- The run found in all of `g`: the longest, and the first of the longest. -/
theorem longestRun_first (g : List Nat) :
    (∀ j, zeroRun (g.drop j) ≤ (longestRun g 0 (0, 0)).2) ∧
      (∀ j, j < (longestRun g 0 (0, 0)).1 → zeroRun (g.drop j) < (longestRun g 0 (0, 0)).2 ∨ (longestRun g 0 (0, 0)).2 = 0) ∧
      ((longestRun g 0 (0, 0)).2 = zeroRun (g.drop (longestRun g 0 (0, 0)).1) ∨ (longestRun g 0 (0, 0)).2 = 0) :=
  longestRun_spec g g 0 (0, 0) (by simp) (by simp) (by simp) (by simp) (by simp)

end run

end Sys2Proof.Machine
end

