-- ==== Sys2Proof/Laws/Exec.lean ====
section
/-! SUPPORT. What the shared shapes of the meanings come to: AND and OR, a formatter, and the string a formatter leaves. -/

namespace Sys2Proof.Machine

/-- AND and OR on operands of one length. -/
theorem State.bitwise2_eq {s : State} {f : Byte → Byte → Byte} {d a b : Reg} (h : (s.view 0 a).len = (s.view 1 b).len) :
    s.bitwise2 f d a b = (((s.noteRead 0 a).noteRead 1 b).writeBuf d (s.view 0 a).len
      (resultLanes (s.view 0 a).len fun k => f ((s.view 0 a).byte k) ((s.view 1 b).byte k))).complete errOk := by
  simp [State.bitwise2, h]

/-- AND and OR on operands of different lengths. -/
theorem State.bitwise2_ne {s : State} {f : Byte → Byte → Byte} {d a b : Reg} (h : (s.view 0 a).len ≠ (s.view 1 b).len) :
    s.bitwise2 f d a b = s.complete errLengthMismatch := by
  simp [State.bitwise2, h]

/-- A formatter either runs or writes the empty string. -/
theorem State.formatIf_cases (s : State) (renders : Nat → Bool) (text : List Byte → List Byte) (a : Reg) :
    (renders (s.view 0 a).len.val = true ∧ s.formatIf renders text a = s.format text a) ∨
      (renders (s.view 0 a).len.val = false ∧ s.formatIf renders text a = (s.emit []).complete errOk) := by
  unfold State.formatIf
  cases renders (s.view 0 a).len.val <;> simp

/-- A formatter on an operand whose bytes were written. -/
theorem State.format_ready {s : State} {a : Reg} (text : List Byte → List Byte) (hz : s.hazard = false)
    (hr : (s.buf a).ready = true) : s.format text a = (s.emit (text (s.buf a).bytes)).complete errOk := by
  unfold State.format
  rw [State.noteRead_ready 0 hz hr, State.view_bytes 0 hz hr]

/-- The string a formatter leaves in OUT. -/
theorem State.emitted_of {s : State} {str : List Byte} (h : str.length ≤ 143) (e : BitVec 4) :
    ((s.emit str).complete e).Emitted str :=
  ⟨by simp [h], fun k => by simp only [State.complete_out, State.emit_out]; exact padOut_getElem str k⟩

theorem Buffer.bytes_length_le (b : Buffer) : b.bytes.length ≤ 16 := by
  rw [Buffer.bytes_length]; omega

theorem View.bytes_length_le (x : View) : x.bytes.length ≤ 16 := by
  rw [View.bytes_length]; omega

end Sys2Proof.Machine
end

