-- ==== Sys2Proof/Laws/Flags.lean ====
section
/-! SUPPORT. The bits of the STATUS and CTRL words (spec/10_state.md R25, R30). -/

namespace Sys2Proof.Machine

theorem bitAt_getLsbD (b : Bool) {n k : Nat} (hn : n < 32) (_hk : k < 32) :
    (bitAt b n).getLsbD k = (decide (k = n) && b) := by
  unfold bitAt
  rw [BitVec.getLsbD_shiftLeft, BitVec.getLsbD_setWidth, BitVec.getLsbD_ofBool]
  by_cases h : k = n
  · simp [h, hn]
  · by_cases h' : k < n
    · simp [h, h']
    · simp [h, h', show k - n ≠ 0 by omega]

/-- Every bit of STATUS. -/
theorem State.statusWord_getLsbD (s : State) {k : Nat} (hk : k < 32) : s.statusWord.getLsbD k =
    if k = 0 then s.busy
    else if k = 1 then s.done
    else if 4 ≤ k ∧ k ≤ 7 then s.err.getLsbD (k - 4)
    else if k = 8 then s.errs
    else if k = 9 then s.ovr
    else false := by
  have herr : (s.err.setWidth 32 <<< 4).getLsbD k = if 4 ≤ k ∧ k ≤ 7 then s.err.getLsbD (k - 4) else false := by
    rw [BitVec.getLsbD_shiftLeft, BitVec.getLsbD_setWidth]
    by_cases h : 4 ≤ k ∧ k ≤ 7
    · simp [h, hk, show ¬ k < 4 by omega, show k - 4 < 32 by omega]
    · rw [if_neg h]
      by_cases h' : k < 4
      · simp [h']
      · rw [BitVec.getLsbD_of_ge s.err (k - 4) (by omega)]; simp
  simp only [State.statusWord, BitVec.getLsbD_or, bitAt_getLsbD _ (show 0 < 32 by decide) hk,
    bitAt_getLsbD _ (show 1 < 32 by decide) hk, bitAt_getLsbD _ (show 8 < 32 by decide) hk,
    bitAt_getLsbD _ (show 9 < 32 by decide) hk, herr]
  by_cases h0 : k = 0
  · simp [h0]
  by_cases h1 : k = 1
  · simp [h1]
  by_cases h8 : k = 8
  · simp [h8]
  by_cases h9 : k = 9
  · simp [h9]
  simp [h0, h1, h8, h9]

/-- Every bit of CTRL. -/
theorem State.ctrlWord_getLsbD (s : State) {k : Nat} (hk : k < 32) : s.ctrlWord.getLsbD k =
    if k = 0 then s.doneie else if k = 1 then s.errie else false := by
  simp only [State.ctrlWord, BitVec.getLsbD_or, bitAt_getLsbD _ (show 0 < 32 by decide) hk,
    bitAt_getLsbD _ (show 1 < 32 by decide) hk]
  by_cases h0 : k = 0
  · simp [h0]
  by_cases h1 : k = 1 <;> simp [h0, h1]

end Sys2Proof.Machine
end

