-- ==== Sys2Proof/Laws/PerInstr.lean ====
section
/-! SUPPORT. Per constructor of Instr: its raw fields pass every check of WellFormed (spec/30_encoding.md R67, R68). -/

namespace Sys2Proof.Laws.WellFormedRaw

/-- Operands are register names, so the raw fields of a command are legal. -/
def Statement (i : Instr) : Prop := i.wellFormed = true

theorem nop : Statement .nop := by unfold Statement; decide
theorem and (d a b : Reg) : Statement (.and d a b) := by
  unfold Statement; revert d a b; set_option maxRecDepth 100000 in decide
theorem or (d a b : Reg) : Statement (.or d a b) := by
  unfold Statement; revert d a b; set_option maxRecDepth 100000 in decide
theorem not (d a : Reg) : Statement (.not d a) := by unfold Statement; revert d a; decide
theorem card (a b : Reg) : Statement (.card a b) := by unfold Statement; revert a b; decide
theorem fbin (a : Reg) : Statement (.fbin a) := by unfold Statement; revert a; decide
theorem fdec8 (a : Reg) : Statement (.fdec8 a) := by unfold Statement; revert a; decide
theorem fdec16 (a : Reg) : Statement (.fdec16 a) := by unfold Statement; revert a; decide
theorem fhex (a : Reg) : Statement (.fhex a) := by unfold Statement; revert a; decide
theorem fshex (a : Reg) : Statement (.fshex a) := by unfold Statement; revert a; decide
theorem fcnt : Statement .fcnt := by unfold Statement; decide

end Sys2Proof.Laws.WellFormedRaw
end

