-- ==== Sys2Proof/Laws/Step.lean ====
section
/-! SUPPORT. What one step does: the engine's completion or the host's event, and what a program's `W`, `R` and `poll` come to. -/

namespace Sys2Proof.Machine

/-- The host's step with its next event taken off the queue. -/
def State.took (s : State) (rest : List HostEvent) : State := { s with host := rest, wait := s.wait - 1 }

section took

variable (s : State) (rest : List HostEvent)

@[simp] theorem State.took_v : (s.took rest).v = s.v := rfl
@[simp] theorem State.took_buf (r : Reg) : (s.took rest).buf r = s.buf r := rfl
@[simp] theorem State.took_cnt : (s.took rest).cnt = s.cnt := rfl
@[simp] theorem State.took_out : (s.took rest).out = s.out := rfl
@[simp] theorem State.took_outlen : (s.took rest).outlen = s.outlen := rfl
@[simp] theorem State.took_pend : (s.took rest).pend = s.pend := rfl
@[simp] theorem State.took_done : (s.took rest).done = s.done := rfl
@[simp] theorem State.took_errs : (s.took rest).errs = s.errs := rfl
@[simp] theorem State.took_ovr : (s.took rest).ovr = s.ovr := rfl
@[simp] theorem State.took_err : (s.took rest).err = s.err := rfl
@[simp] theorem State.took_doneie : (s.took rest).doneie = s.doneie := rfl
@[simp] theorem State.took_errie : (s.took rest).errie = s.errie := rfl
@[simp] theorem State.took_faults : (s.took rest).faults = s.faults := rfl
@[simp] theorem State.took_rst : (s.took rest).rst = s.rst := rfl
@[simp] theorem State.took_hits : (s.took rest).hits = s.hits := rfl
@[simp] theorem State.took_wait : (s.took rest).wait = s.wait - 1 := rfl
@[simp] theorem State.took_draws : (s.took rest).draws = s.draws := rfl
@[simp] theorem State.took_resets : (s.took rest).resets = s.resets := rfl
@[simp] theorem State.took_host : (s.took rest).host = rest := rfl
@[simp] theorem State.took_reads : (s.took rest).reads = s.reads := rfl
@[simp] theorem State.took_busy : (s.took rest).busy = s.busy := rfl
@[simp] theorem State.took_hazard : (s.took rest).hazard = s.hazard := rfl
@[simp] theorem State.took_readReg (r : HostReg) : (s.took rest).readReg r = s.readReg r := by cases r <;> rfl

end took

theorem State.readyWord_none_iff (s : State) : s.readyWord = none ↔ s.pend = none ∨ s.wait ≠ 0 ∨ s.rst = true := by
  unfold State.readyWord
  split
  · rename_i h; simp [h.1, h.2]
  · rename_i h
    simp only [not_and_or, Bool.not_eq_false] at h
    simp only [true_iff]
    tauto

theorem State.readyWord_some_iff (s : State) (w : Word) :
    s.readyWord = some w ↔ s.pend = some w ∧ s.wait = 0 ∧ s.rst = false := by
  unfold State.readyWord
  split <;> simp_all
  intro _ h0
  by_contra hr
  simp_all

/-- A due command: the step is the engine's. -/
theorem step_engine {s : State} {w : Word} (h : s.readyWord = some w) : step s = engineStep w s := by
  simp [step, h]

/-- No command due and nothing queued: time passes. -/
theorem step_idle {s : State} (h : s.readyWord = none) (hq : s.host = []) : step s = .next (s.took []) := by
  simp [step, h, State.hostStep, hq, State.took]

/-- No command due: the host's next event happens. -/
theorem step_event {s : State} {e : HostEvent} {rest : List HostEvent} (h : s.readyWord = none) (hq : s.host = e :: rest) :
    step s = .next ((s.took rest).hostEvent e) := by
  simp [step, h, State.hostStep, hq, State.took]

/-- Everything a step can be. -/
theorem step_cases {s t : State} (h : step s = .next t) :
    (∃ w, s.readyWord = some w ∧ engineStep w s = .next t) ∨
    (s.readyWord = none ∧ s.host = [] ∧ t = s.took []) ∨
    ∃ e rest, s.readyWord = none ∧ s.host = e :: rest ∧ t = (s.took rest).hostEvent e := by
  rcases hr : s.readyWord with _ | w
  · rcases hq : s.host with _ | ⟨e, rest⟩
    · rw [step_idle hr hq] at h; injection h with h
      exact .inr (.inl ⟨rfl, rfl, h.symm⟩)
    · rw [step_event hr hq] at h; injection h with h
      exact .inr (.inr ⟨e, rest, rfl, rfl, h.symm⟩)
  · rw [step_engine hr] at h
    exact .inl ⟨w, rfl, h⟩

/-- The engine step of a legal word is `exec`, of an illegal word ILLEGAL_COMMAND. -/
theorem engineStep_cases {w : Word} {s t : State} (h : engineStep w s = .next t) :
    (∃ i, decode w = .instr i ∧ exec i s = .next t) ∨ (∃ why, decode w = .illegal why ∧ t = s.completeIllegal) := by
  unfold engineStep at h
  split at h
  · rename_i i hi; exact .inl ⟨i, hi, h⟩
  · rename_i why hi; injection h with h; exact .inr ⟨why, hi, h.symm⟩

theorem windowOffset_offset (o : Nat) : (Place.offset o).offset? = if o < 0x1000 then some o else none := by
  simp [Place.offset?, windowOffset]

/-- The window at its bus address. -/
theorem Place.offset?_blockBase_add {off : Nat} (ho : off < 0x1000) :
    (Place.bus (Config.blockBase + off)).offset? = some off := by
  simp [Place.offset?, windowOffset, ho]

/-- Of the place of an access only its offset in the window matters. -/
theorem State.hostAccess_congr {p q : Place} (h : p.offset? = q.offset?) (s : State) (width : Width) (kind : AccessKind) :
    s.hostAccess ⟨p, width, kind⟩ = s.hostAccess ⟨q, width, kind⟩ := by
  simp only [State.hostAccess, h]

/-- What `W off, v` comes to at a defined offset. -/
theorem State.event_write {s : State} {off : Nat} (v : Word) (hr : s.rst = false) (h4 : off % 4 = 0) (ho : off < 0x1000) :
    s.hostEvent (.W off v) = s.hostWrite (regAt off) v := by
  simp [State.hostEvent, HostEvent.W, State.hostAccess, windowOffset_offset, ho, State.accessDefined, hr, h4]

/-- What `R off` comes to at a defined offset. -/
theorem State.event_read {s : State} {off : Nat} (hr : s.rst = false) (h4 : off % 4 = 0) (ho : off < 0x1000) :
    s.hostEvent (.R off) = s.hostRead (regAt off) := by
  simp [State.hostEvent, HostEvent.R, State.hostAccess, windowOffset_offset, ho, State.accessDefined, hr, h4]

/-- A read of a register that is no result, or of any register while no command is pending, returns its value. -/
theorem State.hostRead_defined {s : State} {r : HostReg} (h : s.busy = false ∨ r.isResult = false) :
    s.hostRead r = s.reply (s.readReg r) := by
  rcases h with h | h <;> simp [State.hostRead, h]

/-- A read of a result register while a command is pending returns a free word. -/
theorem State.hostRead_busy {s : State} {r : HostReg} (h : s.busy = true) (hr : r.isResult = true) :
    s.hostRead r = s.replyFree := by
  simp [State.hostRead, h, hr]

theorem regAt_len (i : Reg) : regAt (0x100 + 0x20 * i.val) = .len i := by
  revert i; decide

theorem regAt_data (i : Reg) (j : Fin 4) : regAt (0x110 + 0x20 * i.val + 4 * j.val) = .data i j := by
  revert i j; decide

theorem regAt_out (j : Fin 36) : regAt (0x200 + 4 * j.val) = .out j := by
  revert j; decide

theorem regAt_cnt (j : Fin 5) : regAt (0x020 + 4 * j.val) = .cnt j := by
  revert j; decide

/-- Which register an offset is, case by case (spec/10_state.md R24). -/
theorem regAt_cases (off : Nat) :
    (off = 0x000 ∧ regAt off = .id) ∨ (off = 0x004 ∧ regAt off = .cmd) ∨ (off = 0x008 ∧ regAt off = .status) ∨
    (off = 0x00C ∧ regAt off = .ctrl) ∨ (off = 0x010 ∧ regAt off = .outlen) ∨ (off = 0x014 ∧ regAt off = .param) ∨
    ((0x020 ≤ off ∧ off < 0x034) ∧ ∃ j, regAt off = .cnt j) ∨
    ((0x100 ≤ off ∧ off < 0x200 ∧ off % 0x20 = 0) ∧ ∃ i : Reg, i.val = (off - 0x100) / 0x20 ∧ regAt off = .len i) ∨
    ((0x100 ≤ off ∧ off < 0x200 ∧ 0x10 ≤ off % 0x20) ∧
      ∃ (i : Reg) (j : Fin 4), i.val = (off - 0x100) / 0x20 ∧ regAt off = .data i j) ∨
    ((0x200 ≤ off ∧ off < 0x290) ∧ ∃ j, regAt off = .out j) ∨
    ((off < 0x020 ∧ off ≠ 0x000 ∧ off ≠ 0x004 ∧ off ≠ 0x008 ∧ off ≠ 0x00C ∧ off ≠ 0x010 ∧ off ≠ 0x014 ∨
        (0x034 ≤ off ∧ off < 0x100) ∨ (0x100 ≤ off ∧ off < 0x200 ∧ off % 0x20 ≠ 0 ∧ off % 0x20 < 0x10) ∨ 0x290 ≤ off) ∧
      regAt off = .reserved) := by
  unfold regAt
  by_cases h0 : off = 0x000
  · rw [if_pos h0]; simp [h0]
  rw [if_neg h0]
  by_cases h1 : off = 0x004
  · rw [if_pos h1]; simp [h1]
  rw [if_neg h1]
  by_cases h2 : off = 0x008
  · rw [if_pos h2]; simp [h2]
  rw [if_neg h2]
  by_cases h3 : off = 0x00C
  · rw [if_pos h3]; simp [h3]
  rw [if_neg h3]
  by_cases h4 : off = 0x010
  · rw [if_pos h4]; simp [h4]
  rw [if_neg h4]
  by_cases h5 : off = 0x014
  · rw [if_pos h5]; simp [h5]
  rw [if_neg h5]
  iterate 6 right
  by_cases h6 : off < 0x020
  · rw [if_pos h6]
    exact .inr (.inr (.inr (.inr ⟨.inl ⟨h6, h0, h1, h2, h3, h4, h5⟩, rfl⟩)))
  rw [if_neg h6]
  by_cases h7 : off < 0x034
  · rw [dif_pos h7]
    exact .inl ⟨⟨by omega, h7⟩, _, rfl⟩
  rw [dif_neg h7]
  right
  by_cases h8 : off < 0x100
  · rw [if_pos h8]
    exact .inr (.inr (.inr ⟨.inr (.inl ⟨by omega, h8⟩), rfl⟩))
  rw [if_neg h8]
  by_cases h9 : off < 0x200
  · rw [dif_pos h9]
    by_cases ha : off % 0x20 = 0
    · rw [if_pos ha]
      exact .inl ⟨⟨by omega, h9, ha⟩, _, rfl, rfl⟩
    rw [if_neg ha]
    by_cases hb : off % 0x20 < 0x10
    · rw [if_pos hb]
      exact .inr (.inr (.inr ⟨.inr (.inr (.inl ⟨by omega, h9, ha, hb⟩)), rfl⟩))
    · rw [if_neg hb]
      exact .inr (.inl ⟨⟨by omega, h9, by omega⟩, _, _, rfl, rfl⟩)
  rw [dif_neg h9]
  by_cases hc : off < 0x290
  · rw [dif_pos hc]
    exact .inr (.inr (.inl ⟨⟨by omega, hc⟩, _, rfl⟩))
  · rw [dif_neg hc]
    exact .inr (.inr (.inr ⟨.inr (.inr (.inr (by omega))), rfl⟩))

/-- Everything one access can do to the state, and when (spec/20_memory.md R56). -/
inductive State.AccessEffect (s : State) (a : Access) : State → Prop where
  | outside (h : a.place.offset? = none) : AccessEffect s a s
  | refused (off : Nat) (h : a.place.offset? = some off) (hd : s.accessDefined a.width off = false) :
      AccessEffect s a s.refuseAccess
  | read (w : Word) (hr : s.rst = false) (hk : a.kind = .read) : AccessEffect s a (s.reply w)
  | readBusy (hr : s.rst = false) (hk : a.kind = .read) : AccessEffect s a s.replyFree
  | ignored (w : Word) (hr : s.rst = false) (hk : a.kind = .write w) : AccessEffect s a s
  | cmd (w : Word) (hr : s.rst = false) (hk : a.kind = .write w) (h : a.place.offset? = some 0x004) :
      AccessEffect s a (s.submit w)
  | status (w : Word) (hr : s.rst = false) (hk : a.kind = .write w) (h : a.place.offset? = some 0x008) :
      AccessEffect s a (s.clearStatus w)
  | ctrl (w : Word) (hr : s.rst = false) (hk : a.kind = .write w) : AccessEffect s a (s.setCtrl w)
  | len (i : Reg) (w : Word) (hr : s.rst = false) (hb : s.busy = false) : AccessEffect s a (s.writeLen i w)
  | data (i : Reg) (j : Fin 4) (w : Word) (hr : s.rst = false) (hb : s.busy = false) : AccessEffect s a (s.writeData i j w)
  | hazard (i : Reg) (wr : Vector Bool 16) (w : Word) (off : Nat) (hr : s.rst = false) (hb : s.busy = true)
      (hk : a.kind = .write w) (h : a.place.offset? = some off) (hw : 0x100 ≤ off ∧ off < 0x200) :
      AccessEffect s a (s.hazardWrite i wr)

theorem State.hostAccess_effect (s : State) (a : Access) : s.AccessEffect a (s.hostAccess a) := by
  rcases s.hostAccess_cases a with ⟨h, e⟩ | ⟨off, h, ⟨hd, e⟩ | ⟨hd, hk, e⟩ | ⟨hd, w, hk, e⟩⟩ <;> rw [e]
  · exact .outside h
  · exact .refused off h hd
  · have hr : s.rst = false := by simp [State.accessDefined] at hd; exact hd.1.1
    unfold State.hostRead
    split
    · exact .readBusy hr hk
    · exact .read _ hr hk
  · have hr : s.rst = false := by simp [State.accessDefined] at hd; exact hd.1.1
    rcases regAt_cases off with c | c | c | c | c | c | ⟨-, j, c⟩ | ⟨c1, i, -, c⟩ | ⟨c1, i, j, -, c⟩ | ⟨-, j, c⟩ | c
    · rw [c.2]; exact .ignored w hr hk
    · rw [c.2]; exact .cmd w hr hk (by rw [h, c.1])
    · rw [c.2]; exact .status w hr hk (by rw [h, c.1])
    · rw [c.2]; exact .ctrl w hr hk
    · rw [c.2]; exact .ignored w hr hk
    · rw [c.2]; exact .ignored w hr hk
    · rw [c]; exact .ignored w hr hk
    · rw [c]
      cases hb : s.busy
      · rw [State.hostWrite_len hb]; exact .len i w hr hb
      · rw [State.hostWrite_len_busy hb]; exact .hazard i _ w off hr hb hk h ⟨c1.1, c1.2.1⟩
    · rw [c]
      cases hb : s.busy
      · rw [State.hostWrite_data hb]; exact .data i j w hr hb
      · rw [State.hostWrite_data_busy hb]; exact .hazard i _ w off hr hb hk h ⟨c1.1, c1.2.1⟩
    · rw [c]; exact .ignored w hr hk
    · rw [c.2]; exact .ignored w hr hk

end Sys2Proof.Machine
end

