-- ==== Sys2Proof/Machine/Assembler.lean ====
section
/-! DEFINITION. The assembler syntax (spec/30_encoding.md R75) and the pseudo-instruction `range` (R76): a mnemonic and its
operand texts, already split at the commas, to commands. No part of the machine calls it. -/

namespace Sys2Proof.Machine

/-- A register name; any other text is rejected (spec/30_encoding.md R75). -/
def regOfName (t : String) : Option Reg :=
  if t = "v0" then some 0
  else if t = "v1" then some 1
  else if t = "v2" then some 2
  else if t = "v3" then some 3
  else if t = "v4" then some 4
  else if t = "v5" then some 5
  else if t = "v6" then some 6
  else if t = "v7" then some 7
  else none

/-- The command of a mnemonic and its registers, destination first; another operand count is rejected
(spec/30_encoding.md R75). -/
def assembleRegs (mnemonic : String) (regs : List Reg) : Option Instr :=
  match regs with
  | [] =>
    if mnemonic = "nop" then some .nop
    else if mnemonic = "fcnt" then some .fcnt
    else none
  | [a] =>
    if mnemonic = "fbin" then some (.fbin a)
    else if mnemonic = "fdec8" then some (.fdec8 a)
    else if mnemonic = "fdec16" then some (.fdec16 a)
    else if mnemonic = "fhex" then some (.fhex a)
    else if mnemonic = "fshex" then some (.fshex a)
    else none
  | [x, y] =>
    if mnemonic = "not" then some (.not x y)
    else if mnemonic = "card" then some (.card x y)
    else none
  | [d, a, b] =>
    if mnemonic = "and" then some (.and d a b)
    else if mnemonic = "or" then some (.or d a b)
    else none
  | _ => none

/-- The expansion of `range`, rejected when the operand conditions of spec/30_encoding.md R76 fail. -/
def assembleRange (regs : List Reg) : Option (List Instr) :=
  match regs with
  | [f, l, a, m, t] => if (⟨f, l, a, m, t⟩ : RangeCmd).wellFormed then some (RangeCmd.expand ⟨f, l, a, m, t⟩) else none
  | _ => none

/-- One line of a program: the commands it stands for. -/
def assemble (mnemonic : String) (operands : List String) : Option (List Instr) :=
  match operands.mapM regOfName with
  | none => none
  | some regs =>
    if mnemonic = "range" then assembleRange regs else (assembleRegs mnemonic regs).map fun i => [i]

end Sys2Proof.Machine
end

