-- ==== Sys2Proof/Tests/Slice0.lean ====
section
/-! SUPPORT. Tests. Expected values are those of spec/95_test_vectors.md (its vector is named at each test) or of the rule
named. The witnesses at the end meet the hypotheses of the obligations. -/

namespace Sys2Proof.Tests

open Sys2Proof Sys2Proof.Machine

/-! ### Helpers -/

/-- The ASCII codes of a string. -/
def ascii (t : String) : List Byte := t.toList.map fun c => BitVec.ofNat 8 c.toNat

/-- A buffer register the host has loaded with `bs`. -/
def loaded (bs : List Byte) : Buffer :=
  { len := ⟨min bs.length 16, by omega⟩, data := lanes fun k => bs.getD k.val 0, wr := Vector.replicate 16 true }

/-- After reset, V0 and V1 loaded. -/
def with2 (a b : List Byte) : State := (State.reset.setBuf 0 (loaded a)).setBuf 1 (loaded b)

/-- The state after a completion, or the state itself where there is none. -/
def after (i : Instr) (s : State) : State :=
  match exec i s with
  | .next t => t
  | _ => s

/-- The state after a step, or the state itself where there is none. -/
def stepped (s : State) : State :=
  match step s with
  | .next t => t
  | _ => s

/-- The string in OUT. -/
def text (s : State) : List Byte := s.out.toList.take s.outlen.val

/-- An idle engine, and the host about to do `e`. -/
def idle (e : HostEvent) : State := { State.reset with host := [e] }

/-- The command `w` pending for one more step, and the host about to do `e`. -/
def busy (w : Word) (e : HostEvent) : State := { State.reset with pend := some w, wait := 1, host := [e] }

/-- `rst` asserted, and the host about to do `e`. -/
def inReset (e : HostEvent) : State := { State.reset with rst := true, host := [e] }

/-- After FCNT of CNT = 0 (vector E23), and the host about to do `e`. -/
def afterFcnt (e : HostEvent) : State := { (State.reset.emit [0x30]).complete errOk with host := [e] }

/-! ### WellFormed: each check refuses an ill-formed term (spec/30_encoding.md R67, R68, R76) -/

theorem smoke_reserved_field : (⟨.and, 1, 2, 0, 1⟩ : RawCmd).wellFormed = false := by decide
theorem smoke_used_rd : (⟨.and, 0, 8, 0, 1⟩ : RawCmd).wellFormed = false := by decide
theorem smoke_used_rs1 : (⟨.fbin, 0, 0, 15, 0⟩ : RawCmd).wellFormed = false := by decide
theorem smoke_used_rs2 : (⟨.card, 0, 0, 7, 8⟩ : RawCmd).wellFormed = false := by decide
theorem smoke_unused_rd : (⟨.card, 0, 1, 2, 3⟩ : RawCmd).wellFormed = false := by decide
theorem smoke_unused_rs1 : (⟨.fcnt, 0, 0, 1, 0⟩ : RawCmd).wellFormed = false := by decide
theorem smoke_unused_rs2 : (⟨.not, 0, 3, 1, 1⟩ : RawCmd).wellFormed = false := by decide
theorem smoke_legal : (⟨.and, 0, 7, 7, 7⟩ : RawCmd).wellFormed = true := by decide

theorem smoke_range : (⟨0, 3, 0, 1, 2⟩ : RangeCmd).wellFormed = false ∧ (⟨1, 3, 0, 1, 2⟩ : RangeCmd).wellFormed = false ∧
    (⟨2, 3, 0, 1, 2⟩ : RangeCmd).wellFormed = false ∧ (⟨3, 3, 0, 1, 2⟩ : RangeCmd).wellFormed = false ∧
    (⟨2, 3, 0, 1, 0⟩ : RangeCmd).wellFormed = false ∧ (⟨2, 3, 0, 1, 3⟩ : RangeCmd).wellFormed = true ∧
    (⟨2, 3, 0, 1, 1⟩ : RangeCmd).wellFormed = true := by decide

/-! ### Decoding (spec/95_test_vectors.md 2.1, spec/30_encoding.md R75) -/

/-- Each constructor, from a word written out field by field: OP, RSV, RD, RS1, RS2. -/
theorem test_decode_each :
    decode (0x00#8 ++ 0x000#12 ++ 0#4 ++ 0#4 ++ 0#4) = .instr .nop ∧
    decode (0x01#8 ++ 0x000#12 ++ 2#4 ++ 0#4 ++ 1#4) = .instr (.and 2 0 1) ∧
    decode (0x02#8 ++ 0x000#12 ++ 3#4 ++ 0#4 ++ 4#4) = .instr (.or 3 0 4) ∧
    decode (0x03#8 ++ 0x000#12 ++ 5#4 ++ 6#4 ++ 0#4) = .instr (.not 5 6) ∧
    decode (0x10#8 ++ 0x000#12 ++ 0#4 ++ 2#4 ++ 3#4) = .instr (.card 2 3) ∧
    decode (0x20#8 ++ 0x000#12 ++ 0#4 ++ 1#4 ++ 0#4) = .instr (.fbin 1) ∧
    decode (0x21#8 ++ 0x000#12 ++ 0#4 ++ 2#4 ++ 0#4) = .instr (.fdec8 2) ∧
    decode (0x22#8 ++ 0x000#12 ++ 0#4 ++ 3#4 ++ 0#4) = .instr (.fdec16 3) ∧
    decode (0x23#8 ++ 0x000#12 ++ 0#4 ++ 4#4 ++ 0#4) = .instr (.fhex 4) ∧
    decode (0x24#8 ++ 0x000#12 ++ 0#4 ++ 7#4 ++ 0#4) = .instr (.fshex 7) ∧
    decode (0x28#8 ++ 0x000#12 ++ 0#4 ++ 0#4 ++ 0#4) = .instr .fcnt := by decide

/-- The illegal words X2, X5, X6, X8, X10 and X12, and X4, X13, X14, X16, X17, X19 and X20. -/
theorem test_decode_illegal : (decode 0x00000001).instr? = none ∧ (decode 0x01001000).instr? = none ∧
    (decode 0x01800000).instr? = none ∧ (decode 0x03000311).instr? = none ∧ (decode 0x10000123).instr? = none ∧
    (decode 0x04000000).instr? = none ∧ (decode 0x01000208).instr? = none ∧ (decode 0x11000000).instr? = none ∧
    (decode 0x25000000).instr? = none ∧ (decode 0x24000080).instr? = none ∧ (decode 0x20000001).instr? = none ∧
    (decode 0x28000010).instr? = none ∧ (decode 0xFFFFFFFF).instr? = none := by decide

/-- Each reason of spec/30_encoding.md R73. -/
theorem test_decode_reasons : decode 0x01001000 = .illegal .reservedField ∧ decode 0x04000000 = .illegal .unknownOpcode ∧
    decode 0x01000208 = .illegal .noSuchRegister ∧ decode 0x00000001 = .illegal .unusedField := by decide

/-- The word column of spec/30_encoding.md R75, with its examples. -/
theorem test_encode : encode (.and 2 0 1) = 0x01000201 ∧ encode (.or 3 0 3) = 0x02000303 ∧ encode (.not 3 1) = 0x03000310 ∧
    encode (.card 2 3) = 0x10000023 ∧ encode (.fdec8 2) = 0x21000020 := by decide

theorem test_decodeTableWord : decodeTableWord 32 0x03000700 = some (.not 7 0) ∧ decodeTableWord 32 0x28000000 = some .fcnt ∧
    decodeTableWord 32 0x28000010 = none := by decide

/-- The assembler and `range` (spec/30_encoding.md R75, R76): no name outside v0..v7, no other operand count. -/
theorem test_assemble : (assemble "and" ["v2", "v0", "v1"]).map (·.map encode) = some [0x01000201] ∧
    (assemble "fcnt" []).map (·.map encode) = some [0x28000000] ∧
    (assemble "range" ["v2", "v3", "v0", "v1", "v3"]).map (·.map encode) = some [0x01000201, 0x03000310, 0x02000303] ∧
    assemble "and" ["v2", "v0", "v8"] = none ∧ assemble "and" ["v2", "v0"] = none ∧
    assemble "range" ["v2", "v3", "v0", "v1", "v0"] = none := by decide

/-! ### One command each -/

/-- S2: a NOP after an illegal command puts ERR back to 0 and leaves ERRS. -/
theorem test_nop : (after .nop { State.reset with err := 2, done := true, errs := true }).statusWord = 0x00000102 := by decide

/-- B1, with 0x00 above the length. -/
theorem test_and : ((after (.and 2 0 1) (with2 [0x12, 0x34, 0x56] [0xF0, 0x0F, 0xAA])).buf 2).bytes = [0x10, 0x04, 0x02] ∧
    ((after (.and 2 0 1) (with2 [0x12, 0x34, 0x56] [0xF0, 0x0F, 0xAA])).buf 2).byte 3 = 0x00 := by decide

/-- B9: a length mismatch leaves the destination and gives STATUS 0x112. -/
theorem test_and_mismatch :
    let s := (with2 [1, 2, 3, 4] (List.replicate 16 0xFF)).setBuf 2 (loaded [9, 9, 9, 9])
    (after (.and 2 0 1) s).statusWord = 0x00000112 ∧ (after (.and 2 0 1) s).buf 2 = loaded [9, 9, 9, 9] := by decide

/-- B5: the destination is a source. -/
theorem test_or : ((after (.or 0 0 1) (with2 [0x12, 0x34, 0x56] [0xF0, 0x0F, 0xAA])).buf 0).bytes = [0xF2, 0x3F, 0xFE] := by
  decide

/-- B10: length 0 against 1 is a mismatch. -/
theorem test_or_mismatch : (after (.or 2 0 1) (with2 [] [0xFF])).statusWord = 0x00000112 := by decide

/-- B3: 0x00, not 0xFF, above the length. -/
theorem test_not : ((after (.not 5 0) (with2 [0x12, 0x34, 0x56] [])).buf 5).bytes = [0xED, 0xCB, 0xA9] ∧
    ((after (.not 5 0) (with2 [0x12, 0x34, 0x56] [])).buf 5).byte 15 = 0x00 := by decide

/-- B11: a byte never written is read: the command completes and the model fault is recorded. -/
theorem test_not_unwritten :
    let t := after (.not 1 0) { State.reset with v := State.reset.v.set 0 { Buffer.reset 0 0 with len := 4 } }
    t.statusWord = 0x00000002 ∧ t.faults = ⟨true, false, false⟩ ∧ (t.buf 1).len = 4 ∧ (t.buf 1).byte 4 = 0x00 := by
  decide

/-- K4: no length check, and K6: swapped operands. -/
theorem test_card :
    (after (.card 0 1) (with2 [0x0A, 0, 0, 0] (List.replicate 15 0 ++ [5]))).cnt = BitVec.ofNat 129 167772156 ∧
    (after (.card 0 1) (with2 [0xC0, 0xA8, 0, 0xFF] [0xC0, 0xA8, 0, 0])).cnt = BitVec.ofNat 129 256 := by decide

/-- K7: the widest count, 2^128. -/
theorem test_card_widest : (after (.card 0 1) (with2 (List.replicate 16 0) (List.replicate 16 0xFF))).readReg (.cnt 4) = 1 := by
  decide

/-- E6. -/
theorem test_fbin : text (after (.fbin 0) (with2 [0xC0, 0xA8, 0, 1] [])) = ascii "11000000 10101000 00000000 00000001" := by
  decide

/-- E5: the longest string, and its last word. -/
theorem test_fbin_longest : (after (.fbin 0) (with2 (List.replicate 16 0xFF) [])).outlen = 143 ∧
    (after (.fbin 0) (with2 (List.replicate 16 0xFF) [])).readReg (.out 35) = 0x31313100 := by
  set_option maxRecDepth 4000 in decide

/-- E8: any length, no leading zeros. -/
theorem test_fdec8 : text (after (.fdec8 0) (with2 [0x00, 0x1A, 0x2B, 0x3C, 0x4D, 0x5E] [])) = ascii "0.26.43.60.77.94" := by
  decide

/-- E11. -/
theorem test_fdec16 : text (after (.fdec16 0) (with2 [0x00, 0x1A, 0x2B, 0x3C, 0x4D, 0x5E] [])) = ascii "26.11068.19806" := by
  decide

/-- E10: an odd length gives the empty string. -/
theorem test_fdec16_odd : text (after (.fdec16 0) (with2 [1, 2, 3] [])) = [] := by decide

/-- The example of spec/43_encoder.md R103. -/
theorem test_fhex : text (after (.fhex 0) (with2 [0xFD, 0xD8, 0x0C, 0x61, 0xBF, 0x60, 0x59, 0x0F, 0, 0, 0, 0, 0, 0, 0, 0] [])) =
    ascii "fdd8:0c61:bf60:590f:0000:0000:0000:0000" := by decide

/-- W11: another length gives the empty string and clears OUT. -/
theorem test_fhex_short :
    let t := after (.fhex 0) { with2 [1, 2, 3, 4] [] with out := padOut (ascii "1.2.3.4"), outlen := 7 }
    t.outlen = 0 ∧ t.readReg (.out 0) = 0 ∧ t.statusWord = 0x00000002 := by decide

/-- E12 to E18: which run of zero groups is collapsed. -/
theorem test_fshex_runs : ∀ p ∈ ([
      ([0, 0, 0, 0, 0, 0, 0, 0, 0, 0, 0, 0, 0, 0, 0, 0], "::"),
      ([0, 0, 0, 0, 0, 0, 0, 0, 0, 0, 0, 0, 0, 0, 0, 1], "::1"),
      ([0, 1, 0, 0, 0, 0, 0, 0, 0, 0, 0, 0, 0, 0, 0, 0], "1::"),
      ([0x20, 0x01, 0x0D, 0xB8, 0, 0, 0, 0, 0, 1, 0, 0, 0, 0, 0, 1], "2001:db8::1:0:0:1"),
      ([0x20, 0x01, 0x0D, 0xB8, 0, 0, 0, 1, 0, 1, 0, 1, 0, 1, 0, 1], "2001:db8:0:1:1:1:1:1"),
      ([0, 1, 0, 0, 0, 0, 0, 2, 0, 0, 0, 0, 0, 0, 0, 3], "1:0:0:2::3"),
      ([0, 0, 0, 0, 0, 1, 0, 0, 0, 0, 0, 0, 0, 0, 0, 0], "0:0:1::")] : List (List Byte × String)),
    text (after (.fshex 0) (with2 p.1 [])) = ascii p.2 := by decide

/-- E19, E20, E21: IPv4-mapped, almost so, and another length. -/
theorem test_fshex_mapped : ∀ p ∈ ([
      ([0, 0, 0, 0, 0, 0, 0, 0, 0, 0, 0xFF, 0xFF, 0xC0, 0xA8, 0, 1], "192.168.0.1"),
      ([0, 0, 0, 0, 0, 0, 0, 0, 0, 0, 0xFF, 0xFE, 0xC0, 0xA8, 0, 1], "::fffe:c0a8:1"),
      ([0xC0, 0xA8, 0, 1], "")] : List (List Byte × String)),
    text (after (.fshex 0) (with2 p.1 [])) = ascii p.2 := by decide

/-- E24. -/
theorem test_fcnt : text (after .fcnt { State.reset with cnt := BitVec.ofNat 129 (2 ^ 128) }) =
    ascii "340282366920938463463374607431768211456" := by decide

/-- E25: the tail of a longer string is cleared. -/
theorem test_fcnt_tail :
    let t := after .fcnt { State.reset with out := Vector.replicate 143 0x31, outlen := 143 }
    t.readReg (.out 0) = 0x30000000 ∧ t.readReg (.out 35) = 0 ∧ t.outlen = 1 := by decide

/-! ### Steps -/

/-- The step after reset with B7's word placed runs that word. -/
theorem test_withFetchWord : (stepped (State.reset.withFetchWord 32 0x01000567)).statusWord = 0x00000002 ∧
    (stepped (State.reset.withFetchWord 32 0x01000567)).faults = FaultSet.empty := by decide

/-- S1: an illegal word. -/
theorem test_step_illegal : (stepped (State.reset.withFetchWord 32 0x01000208)).statusWord = 0x00000122 := by decide

/-- S6: an overrun, and S11: DONE cleared while a command is pending. -/
theorem test_step_overrun : (stepped (busy 0x01000201 (.W 0x004 0x03000310))).statusWord = 0x00000201 ∧
    (stepped { busy 0x01000201 (.W 0x008 0x2) with done := true }).statusWord = 0x00000001 := by decide

/-- S3, S4: only the W1C bits clear. -/
theorem test_step_status : (stepped { idle (.W 0x008 0x100) with done := true, errs := true }).statusWord = 0x00000002 ∧
    (stepped { idle (.W 0x008 0xF1) with done := true, errs := true }).statusWord = 0x00000102 := by decide

/-- S9, S10: the interrupt line. -/
theorem test_irq : ({ State.reset with errie := true, ovr := true } : State).irq = true ∧
    ({ State.reset with errie := true, done := true } : State).irq = false ∧
    ({ State.reset with doneie := true, done := true } : State).irq = true := by decide

/-- M4, M5, M6: LEN is WARL. -/
theorem test_len : ((stepped (idle (.W 0x100 16))).buf 0).len = 16 ∧ ((stepped (idle (.W 0x100 17))).buf 0).len = 0 ∧
    ((stepped (idle (.W 0x100 0xFFFFFFFF))).buf 0).len = 0 := by decide

/-- M7: byte 0 is in bits 31:24, and the written bits of the four bytes. -/
theorem test_data : ((stepped (idle (.W 0x110 0xC0A80001))).buf 0).byte 1 = 0xA8 ∧
    ((stepped (idle (.W 0x110 0xC0A80001))).buf 0).written 3 = true ∧
    ((stepped (idle (.W 0x110 0xC0A80001))).buf 0).written 4 = false := by decide

/-- M1, M2, M3, M10: constants, CMD and reserved offsets. -/
theorem test_reads : (stepped (idle (.R 0x000))).reads = [0x51530007] ∧ (stepped (idle (.R 0x014))).reads = [0x008F0810] ∧
    ∀ off ∈ [0x004, 0x018, 0x104, 0x034, 0x290, 0xFFC], (stepped (idle (.R off))).reads = [0] := by decide

/-- M9: the offset of V7.DATA3. -/
theorem test_regAt : regAt 0x1FC = .data 7 3 ∧ regAt 0x28C = .out 35 ∧ regAt 0x030 = .cnt 4 := by decide

/-- M13: an 8-bit read and a misaligned read are refused. -/
theorem test_refused : (stepped (idle (.access ⟨.offset 0x001, .bits8, .read⟩))).faults = ⟨false, false, true⟩ ∧
    (stepped (idle (.R 0x002))).faults = ⟨false, false, true⟩ := by decide

/-- H3: a buffer write while a command is pending. -/
theorem test_hazard : (stepped (busy 0x01000201 (.W 0x110 0x12345678))).faults = ⟨false, true, false⟩ ∧
    (stepped (busy 0x01000201 (.W 0x110 0x12345678))).hazard = true := by decide

/-- H2: reset discards the pending command. -/
theorem test_reset : (stepped (busy 0x01000201 (.rst true))).pend = none ∧
    (stepped (busy 0x01000201 (.rst true))).statusWord = 0 := by decide

/-- `poll` stays while BUSY = 1 and is over at BUSY = 0 (spec/00_scope.md R13). -/
theorem test_poll : (stepped (busy 0x01000201 .poll)).host = [.poll] ∧ (stepped (idle .poll)).host = [] := by decide

/-- `mask(22, 4)` (spec/41_bitwise.md R90; program P3). -/
theorem test_mask : mask 22 4 = [0xFF, 0xFF, 0xFC, 0x00] ∧ mask 0 4 = [0, 0, 0, 0] ∧ mask 32 4 = [0xFF, 0xFF, 0xFF, 0xFF] := by
  decide

/-! ### Witnesses: states and operands that meet the hypotheses of the obligations -/

theorem idle_turn (e : HostEvent) : (idle e).HostTurn e [] ∧ (idle e).rst = false ∧ (idle e).pend = none :=
  ⟨⟨rfl, rfl⟩, rfl, rfl⟩

theorem busy_turn (w : Word) (e : HostEvent) : (busy w e).HostTurn e [] ∧ (busy w e).rst = false ∧ (busy w e).pend ≠ none :=
  ⟨⟨rfl, rfl⟩, rfl, by simp [busy]⟩

theorem afterFcnt_tail : ∀ k : Fin 143, 1 ≤ k.val → (padOut [0x30])[k] = 0 := by decide

theorem afterFcnt_chars : ∀ k : Fin 143, k.val < 1 → isOutputChar (padOut [0x30])[k] = true := by decide

theorem no_hits : (Vector.replicate 8 false).toList.any id = false := by decide

theorem afterFcnt_inv (e : HostEvent) : (afterFcnt e).Inv where
  err := by show (0 : BitVec 4).toNat ≤ 2; decide
  cnt := by show (0 : BitVec 129).toNat ≤ 2 ^ 128; decide
  tail := afterFcnt_tail
  chars := afterFcnt_chars
  idle := fun _ => ⟨rfl, no_hits⟩
  hazard := fun h => absurd (no_hits.symm.trans h) (by decide)
  rst := fun h => by cases h

theorem inReset_inv (e : HostEvent) : (inReset e).Inv where
  err := by show (0 : BitVec 4).toNat ≤ 2; decide
  cnt := by show (0 : BitVec 129).toNat ≤ 2 ^ 128; decide
  tail := fun k _ => by show (Vector.replicate 143 (0 : Byte))[k] = 0; simp
  chars := fun k hk => absurd hk (Nat.not_lt_zero _)
  idle := fun _ => ⟨rfl, no_hits⟩
  hazard := fun h => absurd (no_hits.symm.trans h) (by decide)
  rst := fun _ =>
    { len := by
        have : ∀ i : Reg, (State.reset.buf i).len = 0 := by decide
        exact this
      wr := by
        have : ∀ (i : Reg) (k : Fin 16), (State.reset.buf i).written k = false := by decide
        exact this
      cnt := rfl
      out := fun k => by show (Vector.replicate 143 (0 : Byte))[k] = 0; simp
      outlen := rfl
      pend := rfl
      status := by show State.reset.statusWord = 0; decide
      ctrl := by show State.reset.ctrlWord = 0; decide
      irq := rfl }

theorem witness_StepKeepsInvariant : (afterFcnt (.W 0x004 0)).Inv ∧ ∃ t, step (afterFcnt (.W 0x004 0)) = .next t :=
  ⟨afterFcnt_inv _, _, rfl⟩

theorem witness_RstResets : (busy 0x01000201 (.rst true)).HostTurn (.rst true) [] ∧ (busy 0x01000201 (.rst true)).rst = false ∧
    (inReset (.rst false)).Inv ∧ (inReset (.rst false)).rst = true ∧ (inReset (.rst false)).HostTurn (.rst false) [] :=
  ⟨⟨rfl, rfl⟩, rfl, inReset_inv _, rfl, rfl, rfl⟩

theorem witness_AccessDuringRstRefused : (inReset (.R 0xFFC)).Inv ∧ (inReset (.R 0xFFC)).rst = true ∧ 0xFFC < 0x1000 ∧
    (inReset (.R 0xFFC)).host = [.access ⟨.offset 0xFFC, .bits32, .read⟩] :=
  ⟨inReset_inv _, rfl, by decide, rfl⟩

theorem witness_DecodeEncodeRoundTrip : (Instr.and 7 7 7).wellFormed = true ∧ decode 0x01000777 = .instr (.and 7 7 7) := by decide

theorem witness_IllegalWordsAreThoseListed : decode 0xFFFFFFFF = .illegal .reservedField := by decide

theorem witness_StepCompletesDueCommand :
    (State.reset.placeCommand 0x01000201).pend = some 0x01000201 ∧ (State.reset.placeCommand 0x01000201).wait = 0 ∧
    (State.reset.placeCommand 0x01000201).rst = false ∧ decode 0x01000201 = .instr (.and 2 0 1) ∧
    decode 0x04000000 = .illegal .unknownOpcode ∧ State.reset.pend = none ∧ (busy 0 .poll).wait ≠ 0 ∧
    (inReset .poll).rst = true ∧ 0x28000000 < 2 ^ 32 ∧ decode (BitVec.ofNat 32 0x28000000) = .instr .fcnt := by
  decide

theorem witness_CmdWriteSubmits : ((idle (.W 0x004 0)).HostTurn (.W 0x004 0) [] ∧ (idle (.W 0x004 0)).pend = none) ∧
    (busy 0 (.W 0x004 0)).HostTurn (.W 0x004 0) [] ∧ (busy 0 (.W 0x004 0)).pend ≠ none :=
  ⟨⟨⟨rfl, rfl⟩, rfl⟩, ⟨rfl, rfl⟩, by simp [busy]⟩

theorem witness_PendingCommandCompletes : (busy 0 .poll).pend ≠ none ∧ (busy 0 .poll).rst = false ∧
    (∀ e ∈ (busy 0 .poll).host, e ≠ .rst true) ∧ (busy 0 .poll).wait = 1 := by decide

theorem witness_IdleChangesNothing : State.reset.pend = none ∧ State.reset.host = [] := ⟨rfl, rfl⟩

theorem witness_OperandsHoldUntilCompletion : (busy 0 .poll).pend = some 0 ∧ (busy 0 .poll).readyWord = none ∧
    (∀ rest, (busy 0 .poll).host ≠ .rst true :: rest) ∧ ∃ t, step (busy 0 .poll) = .next t :=
  ⟨rfl, rfl, by simp [busy], _, rfl⟩

/-- AND, OR and their frame and laws: equal lengths, at 0, between and at 16. -/
theorem witness_AndResult_OrResult : ∀ p ∈ ([([], []), ([1], [2]), (List.replicate 16 0xFF, List.replicate 16 1)] :
    List (List Byte × List Byte)), (with2 p.1 p.2).hazard = false ∧ ((with2 p.1 p.2).buf 0).len = ((with2 p.1 p.2).buf 1).len ∧
      ((with2 p.1 p.2).buf 0).ready = true ∧ ((with2 p.1 p.2).buf 1).ready = true := by decide

theorem witness_NotResult : State.reset.hazard = false := by decide

theorem witness_LengthMismatchWritesOnlyStatus : (with2 [] [1]).hazard = false ∧
    ((with2 [] [1]).buf 0).len ≠ ((with2 [] [1]).buf 1).len := by decide

theorem witness_CardResult_CardIsSymmetric : (with2 [1] (List.replicate 16 0xFF)).hazard = false ∧
    ((with2 [1] (List.replicate 16 0xFF)).buf 0).ready = true ∧ ((with2 [1] (List.replicate 16 0xFF)).buf 1).ready = true := by
  decide

/-- FBIN, FDEC8, FDEC16, FHEX, FCNT: at lengths 0, 15 and 16. -/
theorem witness_formatters : ∀ n ∈ [0, 15, 16], (with2 (List.replicate n 0xFF) []).hazard = false ∧
    ((with2 (List.replicate n 0xFF) []).buf 0).ready = true ∧ ((with2 (List.replicate n 0xFF) []).buf 0).len.val = n := by decide

theorem witness_FshexOtherForms : ((with2 [1, 2, 3, 4] []).buf 0).len.val ≠ 16 ∧
    let s := with2 [0, 0, 0, 0, 0, 0, 0, 0, 0, 0, 0xFF, 0xFF, 0xC0, 0xA8, 0, 1] []
    s.hazard = false ∧ (s.buf 0).len.val = 16 ∧ (s.buf 0).ready = true ∧ (∀ k, k < 10 → (s.buf 0).bytes.getD k 0 = 0x00) ∧
      (s.buf 0).bytes.getD 10 0 = 0xFF ∧ (s.buf 0).bytes.getD 11 0 = 0xFF := by decide

/-- A value with runs (E15: groups 2 and 3 are the first longest), one with none of two groups (E16), and all zeros. -/
theorem witness_FshexCollapsesFirstLongestRun :
    let d : List Byte := [0x20, 0x01, 0x0D, 0xB8, 0, 0, 0, 0, 0, 1, 0, 0, 0, 0, 0, 1]
    let d' : List Byte := [0x20, 0x01, 0x0D, 0xB8, 0, 0, 0, 1, 0, 1, 0, 1, 0, 1, 0, 1]
    let z : List Byte := List.replicate 16 0
    ((with2 d []).hazard = false ∧ ((with2 d []).buf 0).len.val = 16 ∧ ((with2 d []).buf 0).ready = true ∧
      ((with2 d []).buf 0).bytes = d ∧ d.take 12 ≠ List.replicate 10 0x00 ++ [0xFF, 0xFF]) ∧
    (ZeroGroups d 2 2 ∧ (∀ i n, i + n ≤ 8 → ZeroGroups d i n → n ≤ 2) ∧ ∀ i, i < 2 → ¬ ZeroGroups d i 2) ∧
    (((with2 d' []).buf 0).bytes = d' ∧ ∀ i, i < 7 → ¬ ZeroGroups d' i 2) ∧
    ((with2 z []).buf 0).bytes = z ∧ ZeroGroups z 0 8 := by
  have zero (d : List Byte) (i : Nat) (h : groupAt d i ≠ 0 ∨ groupAt d (i + 1) ≠ 0) : ¬ ZeroGroups d i 2 := fun hz =>
    h.elim (fun h => h (hz i (by omega) (by omega))) fun h => h (hz (i + 1) (by omega) (by omega))
  refine ⟨by decide, ⟨?_, ?_, ?_⟩, ⟨by decide, ?_⟩, by decide, ?_⟩
  · intro k h1 h2; interval_cases k <;> decide
  · intro i n h hz
    by_contra hn
    have h0 := hz i (by omega) (by omega)
    have h1 := hz (i + 1) (by omega) (by omega)
    have h2 := hz (i + 2) (by omega) (by omega)
    have : i < 6 := by omega
    interval_cases i <;> revert h0 h1 h2 <;> decide
  · intro i h; apply zero; interval_cases i <;> decide
  · intro i h; apply zero; interval_cases i <;> decide
  · intro k _ h2; interval_cases k <;> decide

/-- Equal operand values in different registers of states that differ elsewhere. -/
theorem witness_FormattersDependOnlyOnOperand : (with2 [1, 2] [3]).hazard = false ∧ (with2 [4] [1, 2]).hazard = false ∧
    ((with2 [1, 2] [3]).buf 0).ready = true ∧ ((with2 [4] [1, 2]).buf 1).ready = true ∧
    ((with2 [1, 2] [3]).buf 0).bytes = ((with2 [4] [1, 2]).buf 1).bytes ∧ (with2 [1, 2] [3]).cnt = (with2 [4] [1, 2]).cnt := by
  decide

theorem witness_frames : (Instr.and 2 0 1).dest? = some 2 ∧ (Instr.fcnt).dest? = none ∧ (Instr.fbin 0).isFormatter = true := by decide

theorem witness_ErrorChangesOnlyStatus : ∃ t, engineStep 0xFFFFFFFF State.reset = .next t ∧ t.err ≠ 0 :=
  ⟨State.reset.completeIllegal, by rw [engineStep, witness_IllegalWordsAreThoseListed], by decide⟩

/-- One command that reads an unwritten byte, and one that a length check ends first (vector B12). -/
theorem witness_UnwrittenOperandRecorded :
    let s := State.reset.setBuf 0 { Buffer.reset 0 0 with len := 4 }
    s.hazard = false ∧ (s.buf 0).ready = false ∧ (Instr.not 1 0).dataOperands s = [0] ∧ (Instr.and 2 0 1).dataOperands s = [] := by
  decide

theorem witness_NoCommandReadsFlags : let s' : State := { State.reset with done := true, err := 1, errs := true, errie := true }
    State.reset.SameData s' ∧ s'.hits = State.reset.hits ∧ s'.draws = State.reset.draws ∧ s'.faults = State.reset.faults :=
  ⟨⟨rfl, rfl, rfl, rfl⟩, rfl, rfl, rfl⟩

/-- A CARD and an FCNT that are due, and change CNT and OUT. -/
theorem witness_ResultsChangeOnlyByTheirCommands :
    (stepped (State.reset.placeCommand 0x10000000)).cnt ≠ State.reset.cnt ∧
    (stepped (State.reset.placeCommand 0x28000000)).outlen ≠ State.reset.outlen := by decide

theorem witness_StickyBitsClearedOnlyByHost : ∀ p ∈ [(1, 0x2), (8, 0x100), (9, 0x200)],
    let s : State := { idle (.W 0x008 (BitVec.ofNat 32 p.2)) with done := true, errs := true, ovr := true }
    s.statusWord.getLsbD p.1 = true ∧ (stepped s).statusWord.getLsbD p.1 = false := by decide

theorem witness_FaultSetOnlyGrows : ∀ rest, ¬ (idle .poll).HostTurn (.rst true) rest := by
  intro rest h
  have := h.2
  simp [idle] at this

/-- A command that is due, an FDEC16 of odd length on unwritten bytes that is due (log 14), and a host that writes STATUS at a bus
address while a command is pending. -/
theorem witness_DutifulHostStaysGood : (let s := (with2 [1] [2]).placeCommand 0x01000201
    s.good ∧ s.hazard = false ∧ s.rst = false ∧ s.readyWord = some 0x01000201 ∧ decode 0x01000201 = .instr (.and 2 0 1) ∧
      (∀ r ∈ (Instr.and 2 0 1).dataOperands s, (s.buf r).ready = true) ∧
      (∀ a rest, ¬ s.HostTurn (.access a) rest)) ∧
    (let s := (State.reset.setBuf 0 { Buffer.reset 0 0 with len := 3 }).placeCommand (encode (.fdec16 0))
    s.good ∧ s.hazard = false ∧ s.rst = false ∧ s.readyWord = some (encode (.fdec16 0)) ∧
      decode (encode (.fdec16 0)) = .instr (.fdec16 0) ∧ (Instr.fdec16 0).dataOperands s = [] ∧ (s.buf 0).ready = false) ∧
    let a : Access := ⟨.bus (Config.blockBase + 0x008), .bits32, .write 0x2⟩
    let s := busy 0 (.access a)
    s.good ∧ s.hazard = false ∧ s.rst = false ∧ s.readyWord = none ∧ s.HostTurn (.access a) [] ∧ s.busy = true ∧
      a.width = .bits32 ∧ a.place.offset? = some 0x008 ∧ 0x008 % 4 = 0 ∧ ¬ (0x100 ≤ 0x008 ∧ 0x008 < 0x200) :=
  ⟨⟨rfl, by decide, rfl, rfl, by decide, by decide, fun _ _ h => by have := h.1; revert this; decide⟩,
    ⟨rfl, by decide, rfl, rfl, by decide, by decide, by decide⟩,
    ⟨rfl, by decide, rfl, rfl, (busy_turn _ _).1, rfl, rfl, Place.offset?_blockBase_add (by omega), rfl, by omega⟩⟩

/-- Prefixes 0, 22 and 32 of a 4-byte address. -/
theorem witness_RangeCountsPrefix : ∀ p ∈ [0, 22, 32], let s := with2 [10, 10, 100, 0] (mask p 4)
    (⟨2, 3, 0, 1, 3⟩ : RangeCmd).wellFormed = true ∧ s.hazard = false ∧ (s.buf 0).ready = true ∧ (s.buf 1).ready = true ∧
      (s.buf 0).len.val = 4 ∧ (s.buf 1).bytes = mask p 4 ∧ p ≤ 8 * 4 ∧ (s.buf 0).len = (s.buf 1).len := by decide

theorem witness_BitwiseLaws : let s := with2 [1, 2] [3, 4]
    s.hazard = false ∧ (s.buf 0).ready = true ∧ (s.buf 1).ready = true ∧ (s.buf 0).len = (s.buf 1).len ∧
      (2 : Reg) ≠ 1 ∧ (2 : Reg) ≠ 3 ∧ (2 : Reg) ≠ 0 ∧ (3 : Reg) ≠ 0 ∧ (4 : Reg) ≠ 0 ∧ (4 : Reg) ≠ 3 ∧ (4 : Reg) ≠ 5 := by decide

/-- The boundary offsets of ID, PARAM, STATUS, CTRL, LEN, DATA, CNT, OUT, CMD and the reserved ranges, read and written. -/
theorem witness_host_reads_and_writes (x : Word) : ∀ off ∈ [0x000, 0x004, 0x008, 0x00C, 0x010, 0x014, 0x018, 0x01C, 0x020, 0x030,
    0x034, 0x0FC, 0x100, 0x104, 0x10C, 0x110, 0x1E0, 0x1FC, 0x200, 0x28C, 0x290, 0xFFC],
    ((idle (.R off)).HostTurn (.R off) [] ∧ (idle (.R off)).rst = false ∧ (idle (.R off)).pend = none) ∧
    ((idle (.W off x)).HostTurn (.W off x) [] ∧ (idle (.W off x)).rst = false ∧ (idle (.W off x)).pend = none) ∧
    (busy 0 (.R off)).HostTurn (.R off) [] ∧ (busy 0 (.R off)).rst = false ∧ (busy 0 (.R off)).pend ≠ none ∧
    (busy 0 (.W off x)).HostTurn (.W off x) [] ∧ off % 4 = 0 ∧ off < 0x1000 := by
  intro off h
  refine ⟨idle_turn _, idle_turn _, (busy_turn _ _).1, rfl, (busy_turn _ _).2.2, (busy_turn _ _).1, ?_⟩
  revert off; decide

/-- The two sides of the limit of a LEN write, at V0 and V7. -/
theorem witness_LenIsWarl : ∀ i ∈ [(0 : Reg), 7], ∀ x ∈ [(16 : Word), 17],
    (idle (.W (0x100 + 0x20 * i.val) x)).HostTurn (.W (0x100 + 0x20 * i.val) x) [] := fun _ _ _ _ => (idle_turn _).1

theorem witness_OutWordsHoldCharacters : ∀ j ∈ [(0 : Fin 36), 35], let e := HostEvent.R (0x200 + 4 * j.val)
    (afterFcnt e).Inv ∧ (afterFcnt e).rst = false ∧ (afterFcnt e).pend = none ∧ (afterFcnt e).HostTurn e [] :=
  fun _ _ => ⟨afterFcnt_inv _, rfl, rfl, rfl, rfl⟩

/-- A bus read and a read of another width. -/
theorem witness_ReadsHaveNoSideEffect : (idle (.access ⟨.bus 0, .bits8, .read⟩)).HostTurn (.access ⟨.bus 0, .bits8, .read⟩) [] :=
  (idle_turn _).1

/-- One width that is not 32, one partial write and one misaligned offset; and bus addresses at both ends of the window. -/
theorem witness_UndefinedAccessRefused : ∀ a ∈ [(⟨.offset 0, .bits8, .read⟩ : Access), ⟨.offset 0xFFC, .partial32, .write 1⟩,
    ⟨.offset 0xFFE, .bits32, .read⟩, ⟨.bus Config.blockBase, .bits8, .read⟩, ⟨.bus (Config.blockBase + 0xFFE), .bits32, .write 1⟩],
    (idle (.access a)).HostTurn (.access a) [] ∧ ∃ off, a.place.offset? = some off ∧ (a.width ≠ .bits32 ∨ off % 4 ≠ 0) := by
  intro a ha
  refine ⟨(idle_turn _).1, ?_⟩
  simp only [List.mem_cons, List.not_mem_nil, or_false] at ha
  rcases ha with rfl | rfl | rfl | rfl | rfl
  · exact ⟨0, by simp [windowOffset_offset], .inl (by decide)⟩
  · exact ⟨0xFFC, by simp [windowOffset_offset], .inl (by decide)⟩
  · exact ⟨0xFFE, by simp [windowOffset_offset], .inr (by decide)⟩
  · exact ⟨0, by simpa using Place.offset?_blockBase_add (off := 0) (by omega), .inl (by decide)⟩
  · exact ⟨0xFFE, Place.offset?_blockBase_add (by omega), .inr (by decide)⟩

/-- The first and the last word of the window, and the first address above it. -/
theorem witness_BusWindow : (∀ off ∈ [0, 0xFFC], off < 0x1000 ∧
    (idle (.access ⟨.bus (Config.blockBase + off), .bits32, .write 1⟩)).HostTurn
      (.access ⟨.bus (Config.blockBase + off), .bits32, .write 1⟩) []) ∧
    let a := Config.blockBase + 0x1000
    (idle (.access ⟨.bus a, .bits32, .read⟩)).HostTurn (.access ⟨.bus a, .bits32, .read⟩) [] ∧
      ¬ (Config.blockBase ≤ a ∧ a < Config.blockBase + 0x1000) :=
  ⟨fun off h => ⟨(by decide : ∀ off ∈ [0, 0xFFC], off < 0x1000) off h, (idle_turn _).1⟩, (idle_turn _).1, by omega⟩

end Sys2Proof.Tests
end

section
/-! The numbers that byte strings stand for: the integer view of a buffer (spec/00_scope.md R10), and the numerals the
formatters write (R11). Each of the strings of R11 is a list of digits under `digitChar`, so the value of a string is that
of its digits, `Nat.ofDigits`. -/

namespace Sys2Proof.Machine

section integerView

theorem uint_eq_sum (d : List Byte) :
    uint d = ∑ k ∈ Finset.range d.length, (d.getD k 0).toNat * 256 ^ (d.length - 1 - k) := by
  induction d with
  | nil => rfl
  | cons x xs ih =>
    rw [uint_cons, ih, List.length_cons, Finset.sum_range_succ', add_comm]
    congr 1
    refine Finset.sum_congr rfl fun k _ => ?_
    rw [List.getD_cons_succ, show xs.length + 1 - 1 - (k + 1) = xs.length - 1 - k by omega]

end integerView

section digitChars

theorem charValue_digitChar : ∀ d < 16, charValue (digitChar d) = d := by decide

/-- The character of a digit is one of '0'..'9', 'a'..'f'. -/
theorem digitChar_range : ∀ d < 16, (0x30 ≤ (digitChar d).toNat ∧ (digitChar d).toNat ≤ 0x39) ∨
    (0x61 ≤ (digitChar d).toNat ∧ (digitChar d).toNat ≤ 0x66) := by decide

theorem digitChar_eq_zero : ∀ d < 16, digitChar d = 0x30 → d = 0 := by decide

variable {base : Nat} {ds : List Nat}

theorem mem_map_digitChar (hb : base ≤ 16) (h : ∀ d ∈ ds, d < base) : ∀ c ∈ ds.map digitChar,
    charValue c < base ∧ ((0x30 ≤ c.toNat ∧ c.toNat ≤ 0x39) ∨ (0x61 ≤ c.toNat ∧ c.toNat ≤ 0x66)) := by
  intro c hc
  obtain ⟨d, hd, rfl⟩ := List.mem_map.1 hc
  have hlt := h d hd
  have h16 : d < 16 := by omega
  exact ⟨(charValue_digitChar d h16).symm ▸ hlt, digitChar_range d h16⟩

/-- Characters of digits, read most significant first, stand for the number the digits make. -/
theorem foldl_charValue_map_digitChar (h : ∀ d ∈ ds, d < 16) :
    (ds.map digitChar).foldl (fun acc c => acc * base + charValue c) 0 = Nat.ofDigits base ds.reverse := by
  rw [Nat.ofDigits_eq_foldr, List.foldr_reverse, List.foldl_map]
  refine List.foldl_ext _ _ _ fun acc d hd => ?_
  rw [charValue_digitChar d (h d hd), Nat.cast_id, mul_comm, add_comm]

end digitChars

section numerals

variable {base v : Nat}

theorem numeral_of_ne_zero (h : v ≠ 0) : numeral base v = (Nat.digits base v).reverse.map digitChar := if_neg h

/-- The first digit of a positive number is its last in `Nat.digits`, which is not 0. -/
theorem numeral_head?_ne_zero (hb : 1 < base) (hb' : base ≤ 16) (hv : v ≠ 0) : (numeral base v).head? ≠ some 0x30 := by
  intro h
  have hne := Nat.digits_ne_nil_iff_ne_zero (b := base).2 hv
  rw [numeral_of_ne_zero hv, List.head?_map, List.head?_reverse, List.getLast?_eq_some_getLast hne,
    Option.map_some, Option.some.injEq] at h
  have hlt := Nat.digits_lt_base hb (List.getLast_mem hne)
  exact Nat.getLast_digit_ne_zero base hv (digitChar_eq_zero _ (by omega) h)

theorem numeral_isNumeral (hb : 1 < base) (hb' : base ≤ 16) (v : Nat) : IsNumeral base v (numeral base v) := by
  by_cases hv : v = 0
  · subst hv
    have h0 : numeral base 0 = [0].map digitChar := rfl
    exact
      { digits := h0 ▸ mem_map_digitChar hb' (by simpa using by omega)
        value := by rw [h0, foldl_charValue_map_digitChar (by simp)]; simp
        nonempty := List.cons_ne_nil _ _
        leading := fun _ => ⟨rfl, rfl⟩ }
  · have hds : ∀ d ∈ (Nat.digits base v).reverse, d < base := fun d hd =>
      Nat.digits_lt_base hb (List.mem_reverse.1 hd)
    exact
      { digits := numeral_of_ne_zero hv ▸ mem_map_digitChar hb' hds
        value := by
          rw [numeral_of_ne_zero hv, foldl_charValue_map_digitChar fun d hd => (hds d hd).trans_le hb',
            List.reverse_reverse, Nat.ofDigits_digits]
        nonempty := by simpa [numeral_of_ne_zero hv] using Nat.digits_ne_nil_iff_ne_zero.2 hv
        leading := fun h => absurd h (numeral_head?_ne_zero hb hb' hv) }

end numerals

section padded

theorem hex4_length (v : Nat) : (hex4 v).length = 4 := rfl

theorem hex4_digits_lt (v : Nat) : ∀ d ∈ [v / 4096 % 16, v / 256 % 16, v / 16 % 16, v % 16], d < 16 := by
  simpa using by omega

theorem hex4_value {v : Nat} (h : v < 65536) : (hex4 v).foldl (fun acc c => acc * 16 + charValue c) 0 = v := by
  rw [hex4, foldl_charValue_map_digitChar (hex4_digits_lt v)]
  simpa [Nat.ofDigits_cons] using by omega

theorem hex4_chars (v : Nat) : ∀ c ∈ hex4 v,
    charValue c < 16 ∧ ((0x30 ≤ c.toNat ∧ c.toNat ≤ 0x39) ∨ (0x61 ≤ c.toNat ∧ c.toNat ≤ 0x66)) :=
  mem_map_digitChar le_rfl (hex4_digits_lt v)

theorem bin8_length (b : Byte) : (bin8 b).length = 8 := by simp [bin8]

/-- `bin8` is the characters of the binary digits. -/
theorem bin8_eq_map_digitChar (b : Byte) :
    bin8 b = ([7, 6, 5, 4, 3, 2, 1, 0].map fun j => b.toNat / 2 ^ j % 2).map digitChar := by
  rw [bin8, List.map_map]
  refine List.map_congr_left fun j _ => ?_
  rw [Function.comp_apply, ← Nat.toNat_testBit, BitVec.testBit_toNat]
  cases b.getLsbD j <;> rfl

theorem bin8_value (b : Byte) : (bin8 b).foldl (fun acc c => acc * 2 + charValue c) 0 = b.toNat := by
  have hb := b.isLt
  rw [bin8_eq_map_digitChar, foldl_charValue_map_digitChar (by simpa using by omega)]
  simpa [Nat.ofDigits_cons] using by omega

theorem bin8_chars (b : Byte) : ∀ c ∈ bin8 b, c = 0x30 ∨ c = 0x31 := by
  intro c hc
  obtain ⟨j, -, rfl⟩ := List.mem_map.1 hc
  exact (ite_eq_or_eq (b.getLsbD j = true) _ _).symm

end padded

/-- Settles O23, by induction on the bytes: the first of `n + 1` bytes has the weight `256 ^ n`. -/
theorem integerViewIsBigEndian : Obligations.IntegerViewIsBigEndian := uint_eq_sum

/-- Settles O32: `dec` and `hexmin` are `numeral` in the bases 10 and 16, and `hex4` and `bin8` are the characters of their
four and eight digits. -/
theorem stringFunctionsAreNumerals : Obligations.StringFunctionsAreNumerals :=
  ⟨numeral_isNumeral (by decide) (by decide), numeral_isNumeral (by decide) (by decide),
    fun v hv => ⟨hex4_length v, hex4_value hv, hex4_chars v⟩, fun b => ⟨bin8_length b, bin8_value b, bin8_chars b⟩⟩

end Sys2Proof.Machine
end

section
/-! What one command does, said once: besides STATUS and the record of an unwritten read, a command writes at most its
destination register, or CNT, or OUT and OUTLEN (spec/40_command_execution.md R79, R80). -/

namespace Sys2Proof

open Sys2Proof.Machine

/-- The command reads a data byte that nothing has written, in any state: the Bool its completion adds to the fault set
(spec/10_state.md R45). The dependence on a length is that of `Instr.dataOperands`, on the lengths as the command reads them. -/
def Instr.readsUnwritten (s : Machine.State) : Instr → Bool
  | .nop | .fcnt => false
  | .and _ a b | .or _ a b =>
    decide ((s.view 0 a).len = (s.view 1 b).len) && (s.readsUnwritten 0 a || s.readsUnwritten 1 b)
  | .card a b => s.readsUnwritten 0 a || s.readsUnwritten 1 b
  | .not _ a | .fbin a | .fdec8 a => s.readsUnwritten 0 a
  | .fdec16 a => (s.view 0 a).len.val % 2 == 0 && s.readsUnwritten 0 a
  | .fhex a | .fshex a => (s.view 0 a).len.val == 16 && s.readsUnwritten 0 a

/-- Without a hazard these are the registers of `Instr.dataOperands` that are not ready. -/
theorem Instr.readsUnwritten_eq {s : Machine.State} (h : s.hazard = false) (i : Instr) :
    i.readsUnwritten s = !((i.dataOperands s).all fun r => (s.buf r).ready) := by
  cases i with
  | nop | fcnt => rfl
  | card | not | fbin | fdec8 => simp [Instr.readsUnwritten, Instr.dataOperands, State.readsUnwritten_eq _ h]
  | and | or | fdec16 | fhex | fshex =>
    simp only [Instr.readsUnwritten, Instr.dataOperands, State.readsUnwritten_eq _ h, State.view_len _ h]
    split <;> simp [*]

theorem Instr.not_card_or_formatter_of_dest {i : Instr} {d : Reg} (h : i.dest? = some d) :
    (∀ a b, i ≠ .card a b) ∧ i.isFormatter = false := by
  cases i with
  | and | or | not => exact ⟨nofun, rfl⟩
  | nop | card | fbin | fdec8 | fdec16 | fhex | fshex | fcnt => cases h

end Sys2Proof

namespace Sys2Proof.Machine

/-- `s` with UnwrittenOperand recorded if `b`. -/
def State.noted (s : State) (b : Bool) : State :=
  { s with faults := { s.faults with unwrittenOperand := s.faults.unwrittenOperand || b } }

theorem State.noteRead_eq_noted (s : State) (slot : Nat) (r : Reg) :
    s.noteRead slot r = s.noted (s.readsUnwritten slot r) := rfl

@[simp] theorem State.noted_false (s : State) : s.noted false = s := by simp [State.noted]

theorem State.noted_noted (s : State) (a b : Bool) : (s.noted a).noted b = s.noted (a || b) := by
  simp only [State.noted, Bool.or_assoc]

theorem State.noteRead_noteRead (s : State) (a b : Reg) :
    (s.noteRead 0 a).noteRead 1 b = s.noted (s.readsUnwritten 0 a || s.readsUnwritten 1 b) := by
  rw [State.noteRead_eq_noted _ 1, State.noteRead_readsUnwritten, State.noteRead_eq_noted, State.noted_noted]

/-- Everything a command can do to the state, after its reads are noted. -/
inductive State.ExecEffect (s : State) (i : Instr) : State → Prop where
  | status (e : BitVec 4) (he : e = errOk ∨ i.dest? ≠ none ∧ e = errLengthMismatch) :
      ExecEffect s i ((s.noted (i.readsUnwritten s)).complete e)
  | buf (d : Reg) (n : Fin 17) (x : Vector Byte 16) (hi : i.dest? = some d) :
      ExecEffect s i (((s.noted (i.readsUnwritten s)).writeBuf d n x).complete errOk)
  | cnt (a b : Reg) (c : Nat) (hi : i = .card a b) :
      ExecEffect s i (((s.noted (i.readsUnwritten s)).setCnt c).complete errOk)
  | out (str : List Byte) (hi : i.isFormatter = true) :
      ExecEffect s i (((s.noted (i.readsUnwritten s)).emit str).complete errOk)

section effects

variable {s : State} {i : Instr}

/-- A command that read no unwritten byte and wrote only STATUS. -/
theorem State.ExecEffect.of_complete {e : BitVec 4} (hn : i.readsUnwritten s = false)
    (he : e = errOk ∨ i.dest? ≠ none ∧ e = errLengthMismatch) : s.ExecEffect i (s.complete e) := by
  have h := State.ExecEffect.status (s := s) e he
  rwa [hn, State.noted_false] at h

/-- A formatter that read no unwritten byte. -/
theorem State.ExecEffect.of_emit {str : List Byte} (hn : i.readsUnwritten s = false) (hi : i.isFormatter = true) :
    s.ExecEffect i ((s.emit str).complete errOk) := by
  have h := State.ExecEffect.out (s := s) str hi
  rwa [hn, State.noted_false] at h

theorem State.bitwise2_effect {f : Byte → Byte → Byte} {d a b : Reg} (hi : i.dest? = some d)
    (hn : i.readsUnwritten s =
      (decide ((s.view 0 a).len = (s.view 1 b).len) && (s.readsUnwritten 0 a || s.readsUnwritten 1 b))) :
    s.ExecEffect i (s.bitwise2 f d a b) := by
  by_cases h : (s.view 0 a).len = (s.view 1 b).len
  · rw [State.bitwise2_eq h, State.noteRead_noteRead]
    simp only [h, decide_true, Bool.true_and] at hn
    exact hn ▸ .buf d _ _ hi
  · rw [State.bitwise2_ne h]
    simp only [h, decide_false, Bool.false_and] at hn
    exact .of_complete hn (.inr ⟨by simp [hi], rfl⟩)

theorem State.format_effect {text : List Byte → List Byte} {a : Reg} (hi : i.isFormatter = true)
    (hn : i.readsUnwritten s = s.readsUnwritten 0 a) : s.ExecEffect i (s.format text a) := by
  have h := State.ExecEffect.out (s := s) (text (s.view 0 a).bytes) hi
  rwa [hn] at h

/-- A formatter that reads no byte of a length it does not render. -/
theorem State.formatIf_effect {renders : Nat → Bool} {text : List Byte → List Byte} {a : Reg} (hi : i.isFormatter = true)
    (hn : i.readsUnwritten s = (renders (s.view 0 a).len.val && s.readsUnwritten 0 a)) :
    s.ExecEffect i (s.formatIf renders text a) := by
  rcases s.formatIf_cases renders text a with ⟨hl, e⟩ | ⟨hl, e⟩ <;> rw [e]
  · exact State.format_effect hi (by rw [hn, hl, Bool.true_and])
  · exact .of_emit (by rw [hn, hl, Bool.false_and]) hi

/-- Every command completes, with one of these effects. -/
theorem exec_effect (i : Instr) (s : State) : ∃ t, exec i s = .next t ∧ s.ExecEffect i t := by
  cases i with
  | nop => exact ⟨_, rfl, .of_complete rfl (.inl rfl)⟩
  | and d a b | or d a b => exact ⟨_, rfl, State.bitwise2_effect rfl rfl⟩
  | not d a => exact ⟨_, rfl, .buf d _ _ rfl⟩
  | card a b => exact ⟨_, rfl, State.noteRead_noteRead s a b ▸ .cnt a b _ rfl⟩
  | fbin a | fdec8 a => exact ⟨_, rfl, State.format_effect rfl rfl⟩
  | fdec16 a | fhex a | fshex a => exact ⟨_, rfl, State.formatIf_effect rfl rfl⟩
  | fcnt => exact ⟨_, rfl, .of_emit rfl rfl⟩

theorem effect_of_exec {t : State} (h : exec i s = .next t) : s.ExecEffect i t := by
  obtain ⟨t', ht', he⟩ := exec_effect i s
  cases h.symm.trans ht'
  exact he

end effects

section frame

variable {s t : State} {i : Instr}

/-- The completion writes ERR = 0, or ERR = 1 for a command with a destination (spec/60_exceptions.md R110). -/
theorem State.ExecEffect.completed (h : s.ExecEffect i t) :
    s.Completed t errOk ∨ i.dest? ≠ none ∧ s.Completed t errLengthMismatch := by
  cases h with
  | status e he =>
    rcases he with rfl | ⟨hi, rfl⟩
    · exact .inl ⟨rfl, rfl, rfl, rfl⟩
    · exact .inr ⟨hi, rfl, rfl, rfl, rfl⟩
  | buf | cnt | out => exact .inl ⟨rfl, rfl, rfl, rfl⟩

theorem State.ExecEffect.sameControl (h : s.ExecEffect i t) : s.SameControl t := by
  cases h <;> exact ⟨rfl, rfl, rfl, rfl, rfl, rfl, rfl, rfl⟩

theorem State.ExecEffect.faults (h : s.ExecEffect i t) : t.faults = (s.noted (i.readsUnwritten s)).faults := by
  cases h <;> rfl

theorem State.ExecEffect.buf_other (h : s.ExecEffect i t) {r : Reg} (hr : i.dest? ≠ some r) : t.buf r = s.buf r := by
  cases h with
  | buf d n x hi => exact State.writeBuf_other _ n x fun e => hr (e ▸ hi)
  | status | cnt | out => rfl

theorem State.ExecEffect.cnt_eq (h : s.ExecEffect i t) (hi : ∀ a b, i ≠ .card a b) : t.cnt = s.cnt := by
  cases h with
  | cnt a b c hc => exact absurd hc (hi a b)
  | status | buf | out => rfl

theorem State.ExecEffect.out_eq (h : s.ExecEffect i t) (hi : i.isFormatter = false) :
    t.out = s.out ∧ t.outlen = s.outlen := by
  cases h with
  | out str hf => exact absurd (hf.symm.trans hi) (by decide)
  | status | buf | cnt => exact ⟨rfl, rfl⟩

end frame

/-- Settles O35: a bitwise command has a destination, so it is no CARD and no formatter. -/
theorem bitwiseFrame : Obligations.BitwiseFrame := by
  intro s i d hd
  obtain ⟨t, ht, he⟩ := exec_effect i s
  obtain ⟨hcard, hform⟩ := Instr.not_card_or_formatter_of_dest hd
  obtain ⟨hout, hlen⟩ := he.out_eq hform
  exact ⟨t, ht, he.completed.imp_right And.right, he.sameControl,
    fun r hr => he.buf_other fun e => hr (Option.some.inj (e.symm.trans hd)), he.cnt_eq hcard, hout, hlen⟩

/-- Settles O38: what a completion adds is `Instr.readsUnwritten`, which without a hazard speaks of the data operands. -/
theorem unwrittenOperandRecorded : Obligations.UnwrittenOperandRecorded := by
  intro s t i hz h
  rw [(effect_of_exec h).faults, Instr.readsUnwritten_eq hz]
  rfl

end Sys2Proof.Machine
end

section
/-! Two states that agree on what commands read give the same results, whatever their flags (spec/10_state.md R23, R30). -/

namespace Sys2Proof.Machine

/-- The two states agree on all that a command reads or adds to: the data registers, the hazard record, the number of the next
draw, and the fault set. -/
structure State.SameInputs (s s' : State) : Prop extends s.SameData s' where
  hits   : s'.hits = s.hits
  draws  : s'.draws = s.draws
  faults : s'.faults = s.faults

/-- The two states agree on the data registers, ERR and the fault set. -/
def State.SameResults (s s' : State) : Prop := s.SameData s' ∧ s'.err = s.err ∧ s'.faults = s.faults

namespace State.SameInputs

variable {s s' : State} (h : s.SameInputs s')
include h

theorem buf (r : Reg) : s'.buf r = s.buf r := by rw [State.buf, State.buf, h.v]

theorem hazard : s'.hazard = s.hazard := by rw [State.hazard, State.hazard, h.hits]

theorem hit (r : Reg) : s'.hit r = s.hit r := by rw [State.hit, State.hit, h.hits]

theorem view (slot : Nat) (r : Reg) : s'.view slot r = s.view slot r := by
  simp only [State.view, h.hazard, h.buf, h.draws]

theorem readsUnwritten (slot : Nat) (r : Reg) : s'.readsUnwritten slot r = s.readsUnwritten slot r := by
  simp only [State.readsUnwritten, h.view, h.buf]

theorem cntView : s'.cntView = s.cntView := by
  simp only [State.cntView, h.hazard, h.draws, h.cnt]

theorem noteRead (slot : Nat) (r : Reg) : (s.noteRead slot r).SameInputs (s'.noteRead slot r) where
  v := h.v
  cnt := h.cnt
  out := h.out
  outlen := h.outlen
  hits := h.hits
  draws := h.draws
  faults := by simp only [State.noteRead_faults, h.faults, h.readsUnwritten]

theorem writeBuf (d : Reg) (n : Fin 17) (x : Vector Byte 16) : (s.writeBuf d n x).SameInputs (s'.writeBuf d n x) where
  v := by simp only [State.writeBuf, State.setBuf, h.hit, h.v, h.draws]
  cnt := h.cnt
  out := h.out
  outlen := h.outlen
  hits := h.hits
  draws := h.draws
  faults := h.faults

theorem setCnt (c : Nat) : (s.setCnt c).SameInputs (s'.setCnt c) where
  v := h.v
  cnt := rfl
  out := h.out
  outlen := h.outlen
  hits := h.hits
  draws := h.draws
  faults := h.faults

theorem emit (str : List Byte) : (s.emit str).SameInputs (s'.emit str) where
  v := h.v
  cnt := h.cnt
  out := rfl
  outlen := rfl
  hits := h.hits
  draws := h.draws
  faults := h.faults

theorem complete (e : BitVec 4) : (s.complete e).SameResults (s'.complete e) :=
  ⟨⟨h.v, h.cnt, h.out, h.outlen⟩, rfl, h.faults⟩

theorem bitwise2 (f : Byte → Byte → Byte) (d a b : Reg) : (s.bitwise2 f d a b).SameResults (s'.bitwise2 f d a b) := by
  by_cases hl : (s.view 0 a).len = (s.view 1 b).len
  · rw [State.bitwise2_eq hl, State.bitwise2_eq (s := s') (by rw [h.view, h.view, hl]), h.view, h.view]
    exact (((h.noteRead 0 a).noteRead 1 b).writeBuf d _ _).complete errOk
  · rw [State.bitwise2_ne hl, State.bitwise2_ne (s := s') (by rw [h.view, h.view]; exact hl)]
    exact h.complete errLengthMismatch

theorem format (text : List Byte → List Byte) (a : Reg) : (s.format text a).SameResults (s'.format text a) := by
  rw [State.format, State.format, h.view]
  exact ((h.noteRead 0 a).emit _).complete errOk

theorem formatIf (renders : Nat → Bool) (text : List Byte → List Byte) (a : Reg) :
    (s.formatIf renders text a).SameResults (s'.formatIf renders text a) := by
  rw [State.formatIf, State.formatIf, h.view]
  split
  · exact h.format text a
  · exact (h.emit []).complete errOk

theorem exec (i : Instr) {t t' : State} (ht : Machine.exec i s = .next t) (ht' : Machine.exec i s' = .next t') :
    t.SameResults t' := by
  cases i <;> cases ht <;> cases ht'
  case nop => exact h.complete errOk
  case and d a b => exact h.bitwise2 _ d a b
  case or d a b => exact h.bitwise2 _ d a b
  case not d a => rw [h.view]; exact ((h.noteRead 0 a).writeBuf d _ _).complete errOk
  case card a b => rw [h.view, h.view]; exact (((h.noteRead 0 a).noteRead 1 b).setCnt _).complete errOk
  case fbin a => exact h.format textBin a
  case fdec8 a => exact h.format textDec8 a
  case fdec16 a => exact h.formatIf _ textDec16 a
  case fhex a => exact h.formatIf _ textHex a
  case fshex a => exact h.formatIf _ textShex a
  case fcnt => rw [h.cntView]; exact (h.emit _).complete errOk

end State.SameInputs

/-- Settles O39: what the premises give is all that a command reads. -/
theorem noCommandReadsFlags : Obligations.NoCommandReadsFlags :=
  fun _ _ _ _ i hd hh hn hf => (State.SameInputs.mk hd hh hn hf).exec i

end Sys2Proof.Machine
end

section
/-! What an access, an event and a step leave of the results and the fault set (spec/10_state.md R31, R32, R46). -/

namespace Sys2Proof.Machine

/-- Every member of `f` is one of `g`. -/
structure FaultSet.Le (f g : FaultSet) : Prop where
  unwrittenOperand  : f.unwrittenOperand = true → g.unwrittenOperand = true
  hostHazard        : f.hostHazard = true → g.hostHazard = true
  hostAccessRefused : f.hostAccessRefused = true → g.hostAccessRefused = true

theorem FaultSet.le_of_eq {f g : FaultSet} (h : g = f) : f.Le g := h ▸ ⟨id, id, id⟩

theorem State.ExecEffect.faults_le {s t : State} {i : Instr} (h : s.ExecEffect i t) : s.faults.Le t.faults := by
  rw [h.faults]
  exact ⟨fun h => by simp [State.noted, h], id, id⟩

theorem engineStep_faults_le {w : Word} {s t : State} (h : engineStep w s = .next t) : s.faults.Le t.faults := by
  obtain ⟨i, -, hi⟩ | ⟨-, -, rfl⟩ := engineStep_cases h
  · exact (effect_of_exec hi).faults_le
  · exact FaultSet.le_of_eq rfl

theorem engineStep_sameControl {w : Word} {s t : State} (h : engineStep w s = .next t) : s.SameControl t := by
  obtain ⟨i, -, hi⟩ | ⟨-, -, rfl⟩ := engineStep_cases h
  · exact (effect_of_exec hi).sameControl
  · exact ⟨rfl, rfl, rfl, rfl, rfl, rfl, rfl, rfl⟩

/-- What the host leaves as it was while it does not assert `rst`: CNT, OUT, OUTLEN, and the members of the fault set. -/
structure State.HostFrame (s t : State) : Prop where
  cnt    : t.cnt = s.cnt
  out    : t.out = s.out
  outlen : t.outlen = s.outlen
  faults : s.faults.Le t.faults

theorem State.HostFrame.of_eq {s t : State} (hc : t.cnt = s.cnt) (ho : t.out = s.out) (hl : t.outlen = s.outlen)
    (hf : t.faults = s.faults) : s.HostFrame t := ⟨hc, ho, hl, FaultSet.le_of_eq hf⟩

theorem State.submit_hostFrame (s : State) (w : Word) : s.HostFrame (s.submit w) := by
  cases h : s.busy
  · rw [State.submit_idle w h]; exact .of_eq rfl rfl rfl rfl
  · rw [State.submit_busy w h]; exact .of_eq rfl rfl rfl rfl

/-- A LEN write leaves everything but the buffer registers. -/
theorem State.writeLen_eq_with_v (s : State) (i : Reg) (x : Word) : ∃ v, s.writeLen i x = { s with v := v } := by
  rcases s.writeLen_cases i x with ⟨_, e⟩ | ⟨_, e⟩ <;> exact ⟨_, e⟩

theorem State.writeLen_hostFrame (s : State) (i : Reg) (w : Word) : s.HostFrame (s.writeLen i w) := by
  obtain ⟨v, e⟩ := s.writeLen_eq_with_v i w
  rw [e]
  exact .of_eq rfl rfl rfl rfl

theorem State.AccessEffect.hostFrame {s t : State} {a : Access} (h : s.AccessEffect a t) : s.HostFrame t := by
  cases h with
  | outside | read | readBusy | ignored | status | ctrl | data => exact .of_eq rfl rfl rfl rfl
  | refused => exact ⟨rfl, rfl, rfl, id, id, fun _ => rfl⟩
  | hazard => exact ⟨rfl, rfl, rfl, id, fun _ => rfl, id⟩
  | cmd w => exact s.submit_hostFrame w
  | len i w => exact s.writeLen_hostFrame i w

theorem State.hostEvent_hostFrame (s : State) {e : HostEvent} (he : e ≠ .rst true) : s.HostFrame (s.hostEvent e) := by
  cases e with
  | access a => exact (s.hostAccess_effect a).hostFrame
  | poll =>
    obtain ⟨hc, ho, hl, hf⟩ := (s.hostAccess_effect ⟨.offset 0x008, .bits32, .read⟩).hostFrame
    simp only [State.hostEvent]
    split <;> exact ⟨hc, ho, hl, hf⟩
  | rst level =>
    cases level
    · exact .of_eq rfl rfl rfl rfl
    · exact absurd rfl he

/-- A step in which no command is due and `rst` is not asserted. -/
theorem step_hostFrame {s t : State} (hw : s.readyWord = none) (h : step s = .next t)
    (hr : ∀ rest, ¬ s.HostTurn (.rst true) rest) : s.HostFrame t := by
  obtain ⟨w, hw', -⟩ | ⟨-, -, rfl⟩ | ⟨e, rest, -, hq, rfl⟩ := step_cases h
  · simp [hw] at hw'
  · exact .of_eq rfl rfl rfl rfl
  · have he : e ≠ .rst true := by rintro rfl; exact hr rest ⟨hw, hq⟩
    obtain ⟨hc, ho, hl, hf⟩ := (s.took rest).hostEvent_hostFrame he
    exact ⟨hc, ho, hl, hf⟩

theorem step_faults_le {s t : State} (h : step s = .next t) (hr : ∀ rest, ¬ s.HostTurn (.rst true) rest) :
    s.faults.Le t.faults := by
  rcases hw : s.readyWord with _ | w
  · exact (step_hostFrame hw h hr).faults
  · exact engineStep_faults_le (step_engine hw ▸ h)

/-- Settles O42: no completion, access or other event removes a member. -/
theorem faultSetOnlyGrows : Obligations.FaultSetOnlyGrows := by
  refine ⟨rfl, fun s t h hr => ?_⟩
  obtain ⟨hu, hh, ha⟩ := step_faults_le h hr
  exact ⟨hu, hh, ha⟩

/-- A completion that changes CNT is that of a CARD. -/
theorem engineStep_card_of_cnt_ne {w : Word} {s t : State} (h : engineStep w s = .next t) (hc : t.cnt ≠ s.cnt) :
    ∃ a b, decode w = .instr (.card a b) := by
  obtain ⟨i, hi, he⟩ | ⟨-, -, rfl⟩ := engineStep_cases h
  · by_contra hn
    push Not at hn
    exact hc ((effect_of_exec he).cnt_eq fun a b hab => hn a b (hab ▸ hi))
  · exact absurd rfl hc

/-- A completion that changes OUT or OUTLEN is that of a formatter. -/
theorem engineStep_formatter_of_out_ne {w : Word} {s t : State} (h : engineStep w s = .next t)
    (ho : t.out ≠ s.out ∨ t.outlen ≠ s.outlen) : ∃ i, decode w = .instr i ∧ i.isFormatter = true := by
  obtain ⟨i, hi, he⟩ | ⟨-, -, rfl⟩ := engineStep_cases h
  · refine ⟨i, hi, ?_⟩
    by_contra hn
    obtain ⟨hout, hlen⟩ := (effect_of_exec he).out_eq (Bool.eq_false_iff.2 hn)
    exact ho.elim (· hout) (· hlen)
  · exact absurd ho (by simp [State.completeIllegal])

/-- Settles O40: the host changes none of the three, and the engine only as its command does. -/
theorem resultsChangeOnlyByTheirCommands : Obligations.ResultsChangeOnlyByTheirCommands := by
  intro s t h hr
  rcases hw : s.readyWord with _ | w
  · obtain ⟨hc, ho, hl, -⟩ := step_hostFrame hw h hr
    exact ⟨fun hn => absurd hc hn, fun hn => (hn.elim (· ho) (· hl)).elim⟩
  · rw [step_engine hw] at h
    refine ⟨fun hc => ?_, fun ho => ?_⟩
    · obtain ⟨a, b, hd⟩ := engineStep_card_of_cnt_ne h hc
      exact ⟨w, a, b, rfl, hd⟩
    · obtain ⟨i, hd, hf⟩ := engineStep_formatter_of_out_ne h ho
      exact ⟨w, i, rfl, hd, hf⟩

end Sys2Proof.Machine
end

section
/-! What the host's accesses do while `rst` is released: reads of defined offsets, writes that are ignored, and writes of STATUS,
CTRL, LEN and DATA (spec/10_state.md R25 to R39). -/

namespace Sys2Proof.Machine

section access

variable {s : State} {rest : List HostEvent} {off : Nat} {r : HostReg}

/-- The step of a defined write at the host's turn. -/
theorem step_write {x : Word} (hr : s.rst = false) (h : s.HostTurn (.W off x) rest) (hreg : regAt off = r)
    (h4 : off % 4 = 0) (ho : off < 0x1000) : step s = .next ((s.took rest).hostWrite r x) := by
  rw [step_event h.1 h.2, State.event_write (s := s.took rest) x hr h4 ho, hreg]

/-- A read of a register that is no result, or of any while no command is pending: the host gets its value, and no register, flag,
pending command or fault changes (spec/20_memory.md R56). -/
theorem step_read (hr : s.rst = false) (h : s.HostTurn (.R off) rest) (hreg : regAt off = r)
    (hb : s.busy = false ∨ r.isResult = false) (h4 : off % 4 = 0) (ho : off < 0x1000) :
    ∃ t, step s = .next t ∧ t.reads = s.readReg r :: s.reads ∧ s.SameData t ∧ s.SameFlags t ∧ t.pend = s.pend ∧
      t.faults = s.faults := by
  refine ⟨(s.took rest).reply (s.readReg r), ?_, rfl, ⟨rfl, rfl, rfl, rfl⟩, ⟨rfl, rfl, rfl, rfl, rfl, rfl⟩, rfl, rfl⟩
  rw [step_event h.1 h.2, State.event_read (s := s.took rest) hr h4 ho, hreg,
    State.hostRead_defined (s := s.took rest) hb, State.took_readReg]

/-- The registers whose writes do something (spec/10_state.md R24). -/
def HostReg.isWritable : HostReg → Bool
  | .cmd | .status | .ctrl | .len _ | .data _ _ => true
  | .id | .outlen | .param | .cnt _ | .out _ | .reserved => false

theorem State.hostWrite_not_writable (s : State) (h : r.isWritable = false) (x : Word) : s.hostWrite r x = s := by
  cases r with
  | id | outlen | param | cnt | out | reserved => rfl
  | cmd | status | ctrl | len | data => cases h

/-- A write that is ignored changes no register, flag, pending command or fault, and returns nothing (spec/10_state.md R35). -/
theorem step_write_ignored {x : Word} (hr : s.rst = false) (h : s.HostTurn (.W off x) rest)
    (hw : (regAt off).isWritable = false) (h4 : off % 4 = 0) (ho : off < 0x1000) :
    ∃ t, step s = .next t ∧ t.reads = s.reads ∧ s.SameData t ∧ s.SameFlags t ∧ t.pend = s.pend ∧ t.faults = s.faults := by
  refine ⟨s.took rest, ?_, rfl, ⟨rfl, rfl, rfl, rfl⟩, ⟨rfl, rfl, rfl, rfl, rfl, rfl⟩, rfl, rfl⟩
  rw [step_write hr h rfl h4 ho, State.hostWrite_not_writable _ hw]

end access

theorem State.busy_eq_false {s : State} (h : s.pend = none) : s.busy = false := by rw [State.busy, h]; rfl

/-- Settles O48: the bits of the word are those of `statusWord`, and a write is `clearStatus`. -/
theorem statusReadAndClear : Obligations.StatusReadAndClear := by
  refine ⟨by decide, fun s rest hr h => ?_, fun s x rest hr h => ?_⟩
  · obtain ⟨t, ht, hreads, hdata, hflags, hpend, hfaults⟩ := step_read (r := .status) hr h rfl (.inr rfl) rfl (by decide)
    exact ⟨t, _, ht, hreads, hdata, hflags, hpend, hfaults, fun k hk => s.statusWord_getLsbD hk⟩
  · exact ⟨(s.took rest).clearStatus x, step_write hr h rfl rfl (by decide), rfl, rfl, rfl, rfl, rfl, rfl, rfl,
      ⟨rfl, rfl, rfl, rfl⟩, rfl, rfl⟩

/-- Settles O49: the bits of the word are those of `ctrlWord`, a write is `setCtrl`, and no completion touches the control state. -/
theorem ctrlReadAndWrite : Obligations.CtrlReadAndWrite := by
  refine ⟨fun s rest hr h => ?_, fun s x rest hr h => ?_, fun w s t h => ?_⟩
  · obtain ⟨t, ht, hreads, hdata, hflags, hpend, hfaults⟩ := step_read (r := .ctrl) hr h rfl (.inr rfl) rfl (by decide)
    exact ⟨t, _, ht, hreads, hdata, hflags, hpend, hfaults, fun k hk => s.ctrlWord_getLsbD hk⟩
  · exact ⟨(s.took rest).setCtrl x, step_write hr h rfl rfl (by decide), rfl, rfl, rfl, rfl, rfl, rfl, rfl,
      ⟨rfl, rfl, rfl, rfl⟩, rfl, rfl⟩
  · have hc := engineStep_sameControl h
    exact ⟨hc.doneie, hc.errie⟩

section offsets

variable {off : Nat}

/-- The offsets that read 0 (spec/10_state.md R29, R35). -/
theorem regAt_cmd_or_reserved (h : off = 0x004 ∨ (0x018 ≤ off ∧ off < 0x020) ∨ (0x034 ≤ off ∧ off < 0x100) ∨
    (0x100 ≤ off ∧ off < 0x200 ∧ 0x04 ≤ off % 0x20 ∧ off % 0x20 < 0x10) ∨ 0x290 ≤ off) :
    regAt off = .cmd ∨ regAt off = .reserved := by
  rcases regAt_cases off with c | c | c | c | c | c | c | c | c | c | c
  · exact absurd c.1 (by omega)
  · exact .inl c.2
  iterate 8 · exact absurd c.1 (by omega)
  · exact .inr c.2

theorem regAt_not_writable (hcmd : off ≠ 0x004) (hstatus : off ≠ 0x008) (hctrl : off ≠ 0x00C)
    (hbuf : ¬ (0x100 ≤ off ∧ off < 0x200 ∧ (off % 0x20 = 0 ∨ 0x10 ≤ off % 0x20))) : (regAt off).isWritable = false := by
  rcases regAt_cases off with c | c | c | c | c | c | ⟨-, j, c⟩ | c | c | ⟨-, j, c⟩ | c
  · rw [c.2]; rfl
  · exact absurd c.1 hcmd
  · exact absurd c.1 hstatus
  · exact absurd c.1 hctrl
  · rw [c.2]; rfl
  · rw [c.2]; rfl
  · rw [c]; rfl
  · exact absurd c.1 (by omega)
  · exact absurd c.1 (by omega)
  · rw [c]; rfl
  · rw [c.2]; rfl

end offsets

/-- Settles O55: CMD and the reserved offsets read 0, and a register that is not writable ignores a write. -/
theorem reservedAndReadOnlyOffsets : Obligations.ReservedAndReadOnlyOffsets := by
  refine fun s off rest hr h4 ho => ⟨fun hoff h => ?_, fun x hcmd hstatus hctrl hbuf h => ?_⟩
  · rcases regAt_cmd_or_reserved hoff with hreg | hreg <;> exact step_read hr h hreg (.inr rfl) h4 ho
  · exact step_write_ignored hr h (regAt_not_writable hcmd hstatus hctrl hbuf) h4 ho

/-- Settles O47: `readReg` has the constants, and neither register is writable. -/
theorem idAndParamAreConstant : Obligations.IdAndParamAreConstant := by
  intro s rest hr off w hmem
  simp only [List.mem_cons, List.not_mem_nil, or_false, Prod.mk.injEq] at hmem
  rcases hmem with ⟨rfl, rfl⟩ | ⟨rfl, rfl⟩
  · exact ⟨fun h => step_read (r := .id) hr h rfl (.inr rfl) rfl (by decide),
      fun x h => step_write_ignored hr h rfl rfl (by decide)⟩
  · exact ⟨fun h => step_read (r := .param) hr h rfl (.inr rfl) rfl (by decide),
      fun x h => step_write_ignored hr h rfl rfl (by decide)⟩

theorem State.writeLen_len (s : State) (i : Reg) (x : Word) :
    ((s.writeLen i x).buf i).len.val = if x.toNat ≤ 16 then x.toNat else (s.buf i).len.val := by
  rcases s.writeLen_cases i x with ⟨hx, e⟩ | ⟨hx, e⟩ <;> rw [e]
  · rw [State.setBuf_self, if_pos hx]
  · rw [if_neg (by omega)]

/-- A LEN write leaves DATA and the written bits of its register. -/
theorem State.writeLen_data_wr (s : State) (i : Reg) (x : Word) :
    ((s.writeLen i x).buf i).data = (s.buf i).data ∧ ((s.writeLen i x).buf i).wr = (s.buf i).wr := by
  rcases s.writeLen_cases i x with ⟨_, e⟩ | ⟨_, e⟩ <;> rw [e]
  · rw [State.setBuf_self]; exact ⟨rfl, rfl⟩
  · exact ⟨rfl, rfl⟩

theorem State.writeLen_other (s : State) {i q : Reg} (x : Word) (h : q ≠ i) : (s.writeLen i x).buf q = s.buf q := by
  rcases s.writeLen_cases i x with ⟨_, e⟩ | ⟨_, e⟩ <;> rw [e]
  exact s.setBuf_other _ h

theorem State.writeData_self (s : State) (i : Reg) (j : Fin 4) (x : Word) : (s.writeData i j x).buf i =
    { len := (s.buf i).len
      data := lanes fun k => if k.val / 4 = j.val then unpackByte x (k.val % 4) else (s.buf i).byte k
      wr := (s.buf i).wrWithWord j } := s.setBuf_self i _

theorem State.writeData_other (s : State) {i q : Reg} (j : Fin 4) (x : Word) (h : q ≠ i) :
    (s.writeData i j x).buf q = s.buf q := s.setBuf_other _ h

/-- Byte `k` of DATA as it stands in the word that holds it. -/
theorem State.readReg_data_byte (s : State) (i : Reg) {j : Fin 4} {k : Fin 16} (h : k.val / 4 = j.val) :
    (s.readReg (.data i j)).extractLsb' (24 - 8 * (k.val % 4)) 8 = (s.buf i).byte k := by
  have hk : byteAt j ⟨k.val % 4, by omega⟩ = k := Fin.ext (by simp only [byteAt]; omega)
  have hbyte := packWord_byte (fun c => (s.buf i).byte (byteAt j c)) ⟨k.val % 4, by omega⟩
  rwa [hk] at hbyte

/-- Settles O51: a write is `writeLen`, which leaves all but the length of its register. -/
theorem lenIsWarl : Obligations.LenIsWarl := by
  refine ⟨fun s i rest hr hp h => ?_, fun s i x rest hr hp h => ?_⟩
  · obtain ⟨t, ht, hreads, hdata, hflags, hpend, hfaults⟩ :=
      step_read hr h (regAt_len i) (.inl (State.busy_eq_false hp)) (by omega) (by omega)
    have hlen : (s.readReg (.len i)).toNat = (s.buf i).len.val := by
      simp only [State.readReg, BitVec.toNat_ofNat]; omega
    exact ⟨t, _, ht, hreads, hlen, hdata, hflags, hpend.trans hp, hfaults⟩
  · have hstep := step_write hr h (regAt_len i) (by omega) (by omega)
    rw [State.hostWrite_len (s := s.took rest) (State.busy_eq_false hp)] at hstep
    obtain ⟨hd, hw⟩ := (s.took rest).writeLen_data_wr i x
    have hlen := (s.took rest).writeLen_len i x
    have hother := fun q => (s.took rest).writeLen_other (i := i) (q := q) x
    obtain ⟨v, hv⟩ := (s.took rest).writeLen_eq_with_v i x
    refine ⟨_, hstep, hlen, hd, hw, hother, ?_⟩
    rw [hv]
    exact ⟨rfl, rfl, rfl, ⟨rfl, rfl, rfl, rfl, rfl, rfl⟩, hp, rfl, rfl⟩

/-- Settles O52: a read is `packWord` of the four bytes, and a write is `writeData`. -/
theorem dataWordsAreBigEndian : Obligations.DataWordsAreBigEndian := by
  refine ⟨fun s i j rest hr hp h => ?_, fun s i j x rest hr hp h => ?_⟩
  · obtain ⟨t, ht, hreads, hdata, hflags, hpend, hfaults⟩ :=
      step_read hr h (regAt_data i j) (.inl (State.busy_eq_false hp)) (by omega) (by omega)
    exact ⟨t, _, ht, hreads, hdata, hflags, hpend.trans hp, hfaults, fun k hk => s.readReg_data_byte i hk⟩
  · have hstep := step_write hr h (regAt_data i j) (by omega) (by omega)
    rw [State.hostWrite_data (s := s.took rest) (State.busy_eq_false hp)] at hstep
    have hself := (s.took rest).writeData_self i j x
    exact ⟨_, hstep, by rw [hself]; rfl, fun k => by rw [hself, Buffer.byte_mk]; rfl,
      fun k => by rw [hself, Buffer.written_wrWithWord]; rfl, fun q hq => (s.took rest).writeData_other j x hq, rfl, rfl, rfl,
      ⟨rfl, rfl, rfl, rfl, rfl, rfl⟩, hp, rfl, rfl⟩

/-- Settles O53: the words as numbers. -/
theorem countWordsLeastSignificantFirst : Obligations.CountWordsLeastSignificantFirst := by
  refine fun s rest hr hp => ⟨fun j h => ?_, fun h => ?_⟩
  · obtain ⟨t, ht, hreads, hdata, hflags, hpend, hfaults⟩ :=
      step_read hr h (regAt_cnt j) (.inl (State.busy_eq_false hp)) (by omega) (by omega)
    have hword : (s.readReg (.cnt j)).toNat = s.cnt.toNat / 2 ^ (32 * j.val) % 2 ^ 32 := by
      rw [State.readReg, BitVec.extractLsb'_toNat, Nat.shiftRight_eq_div_pow]
    exact ⟨t, _, ht, hreads, hword, hdata, hflags, hpend.trans hp, hfaults⟩
  · obtain ⟨t, ht, hreads, hdata, hflags, hpend, hfaults⟩ :=
      step_read (r := .outlen) hr h rfl (.inl (State.busy_eq_false hp)) rfl (by decide)
    have hword : (s.readReg .outlen).toNat = s.outlen.val := by
      simp only [State.readReg, BitVec.toNat_ofNat]; omega
    exact ⟨t, _, ht, hreads, hword, hdata, hflags, hpend.trans hp, hfaults⟩

/-- A character of OUT as read: zero at and above OUTLEN, which is at most 143 (spec/10_state.md R39). -/
theorem State.Inv.outChar {s : State} (h : s.Inv) (k : Nat) :
    s.outChar k = if hk : k < s.outlen.val then s.out[k]'(by omega) else 0x00 := by
  rw [State.outChar, List.getD_eq_getElem?_getD]
  by_cases hlt : k < 143
  · rw [List.getElem?_eq_getElem (by simpa using hlt), Option.getD_some, Vector.getElem_toList]
    split
    · rfl
    · rename_i hk
      exact h.tail ⟨k, hlt⟩ (not_lt.1 hk)
  · rw [List.getElem?_eq_none (by simpa using hlt), dif_neg (by omega)]
    rfl

theorem State.readReg_out_char (s : State) (j : Fin 36) (k : Fin 4) :
    (s.readReg (.out j)).extractLsb' (24 - 8 * k.val) 8 = s.outChar (4 * j.val + k.val) :=
  packWord_byte (fun c => s.outChar (4 * j.val + c.val)) k

/-- Settles O54: `packWord` puts the characters at their places, and the invariant has the zeros. -/
theorem outWordsHoldCharacters : Obligations.OutWordsHoldCharacters := by
  intro s j rest hinv hr hp h
  obtain ⟨t, ht, hreads, hdata, -, -, hfaults⟩ :=
    step_read hr h (regAt_out j) (.inl (State.busy_eq_false hp)) (by omega) (by omega)
  exact ⟨t, _, ht, hreads, hdata, hfaults, fun k => (s.readReg_out_char j k).trans (hinv.outChar _)⟩

end Sys2Proof.Machine
end

section
/-! The state after reset (spec/10_state.md R48). -/

namespace Sys2Proof.Machine

theorem State.resetAt_buf (n : Nat) (i : Reg) : (State.resetAt n).buf i = Buffer.reset n i.val := by
  simp [State.buf, State.resetAt]

/-- Whatever the number of the reset and so the DATA bytes. -/
theorem State.resetAt_atReset (n : Nat) : (State.resetAt n).AtReset where
  len i := by rw [State.resetAt_buf]; rfl
  wr i k := by rw [State.resetAt_buf]; simp [Buffer.written, Buffer.reset]
  cnt := rfl
  out k := by simp [State.resetAt]
  outlen := rfl
  pend := rfl
  status := by simp [State.statusWord, State.busy, State.resetAt, bitAt]
  ctrl := by simp [State.ctrlWord, State.resetAt, bitAt]
  irq := rfl

theorem State.resetAt_hazard (n : Nat) : (State.resetAt n).hazard = false := by
  simp [State.hazard, State.resetAt]

theorem State.resetAt_inv (n : Nat) : (State.resetAt n).Inv where
  err := Nat.zero_le 2
  cnt := Nat.zero_le _
  tail k _ := (State.resetAt_atReset n).out k
  chars k hk := absurd hk (Nat.not_lt_zero _)
  idle _ := ⟨rfl, State.resetAt_hazard n⟩
  hazard h := absurd (h.symm.trans (State.resetAt_hazard n)) (by decide)
  rst _ := State.resetAt_atReset n

/-- Settles O1, from the state after any reset. -/
theorem resetLeavesSpecifiedState : Obligations.ResetLeavesSpecifiedState :=
  ⟨State.resetAt_atReset 0, rfl, rfl, rfl, rfl, rfl, rfl, rfl, rfl, rfl⟩

/-- Settles O2, from the state after any reset. -/
theorem resetMeetsInvariant : Obligations.ResetMeetsInvariant := State.resetAt_inv 0

end Sys2Proof.Machine
end

section
/-! The window and its accesses: where a bus access arrives, which accesses are refused, that a read changes nothing, and that a
pending command's operands hold until its completion (spec/20_memory.md R53 to R59). -/

namespace Sys2Proof.Machine

section access

variable {s : State} {a : Access} {p : Place} {width : Width} {off : Nat} {rest : List HostEvent}

/-- The step of an access at the host's turn. -/
theorem step_access (h : s.HostTurn (.access a) rest) : step s = .next ((s.took rest).hostAccess a) :=
  step_event h.1 h.2

theorem State.hostAccess_outside (s : State) (h : a.place.offset? = none) : s.hostAccess a = s := by
  simp only [State.hostAccess, h]

theorem State.hostAccess_refused (h : a.place.offset? = some off) (hd : s.accessDefined a.width off = false) :
    s.hostAccess a = s.refuseAccess := by
  simp [State.hostAccess, h, hd]

/-- Only an access of 32 bits at a multiple of 4 is defined (spec/20_memory.md R53). -/
theorem State.accessDefined_eq_false (s : State) (h : width ≠ .bits32 ∨ off % 4 ≠ 0) : s.accessDefined width off = false := by
  rcases h with h | h <;> simp [State.accessDefined, h]

/-- A read reaches nothing, is refused, or returns a word, which may be a free one. -/
theorem State.hostAccess_read_cases (s : State) (p : Place) (width : Width) :
    s.hostAccess ⟨p, width, .read⟩ = s ∨ s.hostAccess ⟨p, width, .read⟩ = s.refuseAccess ∨
      (∃ w, s.hostAccess ⟨p, width, .read⟩ = s.reply w) ∨ s.hostAccess ⟨p, width, .read⟩ = s.replyFree := by
  obtain ⟨-, e⟩ | ⟨off, -, ⟨-, e⟩ | ⟨-, -, e⟩ | ⟨-, w, hk, -⟩⟩ := s.hostAccess_cases ⟨p, width, .read⟩
  · exact .inl e
  · exact .inr (.inl e)
  · rw [e, State.hostRead]
    split
    · exact .inr (.inr (.inr rfl))
    · exact .inr (.inr (.inl ⟨_, rfl⟩))
  · cases hk

theorem windowOffset_eq_some {base addr : Nat} :
    windowOffset base addr = some off ↔ base ≤ addr ∧ addr < base + 0x1000 ∧ off = addr - base := by
  simp only [windowOffset, Option.ite_none_right_eq_some, Option.some.injEq, and_assoc, eq_comm (a := off)]

theorem windowOffset_eq_none {base addr : Nat} (h : ¬ (base ≤ addr ∧ addr < base + 0x1000)) :
    windowOffset base addr = none := if_neg h

/-- The window's base is the start of a page (spec/00_scope.md R6). -/
theorem blockBase_mod : Config.blockBase % 0x1000 = 0 :=
  Nat.mod_eq_zero_of_dvd ⟨Config.blockPage, Nat.mul_comm _ _⟩

end access

/-- Settles O56: none of the four things a read can come to touches more than the fault set, the replies and the draws. -/
theorem readsHaveNoSideEffect : Obligations.ReadsHaveNoSideEffect := by
  intro s p width rest h
  refine ⟨_, step_access h, ?_⟩
  obtain e | e | ⟨w, e⟩ | e := (s.took rest).hostAccess_read_cases p width <;> rw [e] <;>
    exact ⟨⟨rfl, rfl, rfl, rfl⟩, ⟨rfl, rfl, rfl, rfl, rfl, rfl⟩, rfl, rfl, rfl, rfl⟩

/-- Settles O59: the access is not defined, so it comes to `refuseAccess`. -/
theorem undefinedAccessRefused : Obligations.UndefinedAccessRefused := by
  intro s p off width kind rest h hp hundef
  refine ⟨(s.took rest).refuseAccess, ?_, rfl, ⟨rfl, rfl, rfl, rfl⟩, ⟨rfl, rfl, rfl, rfl, rfl, rfl⟩, rfl, rfl, rfl, rfl⟩
  rw [step_access h, State.hostAccess_refused hp ((s.took rest).accessDefined_eq_false hundef)]

/-- Settles O60: an access is determined by its offset in the window, and without one it is no access. -/
theorem busWindow : Obligations.BusWindow := by
  refine ⟨blockBase_mod, fun a off => windowOffset_eq_some, fun s off width kind rest ho h => ?_,
    fun s a width kind rest h hout => ?_⟩
  · have hplace : (Place.bus (Config.blockBase + off)).offset? = (Place.offset off).offset? := by
      rw [Place.offset?_blockBase_add ho, windowOffset_offset, if_pos ho]
    have hoffset : State.HostTurn { s with host := .access ⟨.offset off, width, kind⟩ :: rest }
      (.access ⟨.offset off, width, kind⟩) rest := ⟨h.1, rfl⟩
    refine ⟨_, step_access h, ?_⟩
    rw [step_access hoffset, State.hostAccess_congr hplace]
    rfl
  · have hnone : (Place.bus a).offset? = none := windowOffset_eq_none hout
    refine ⟨s.took rest, ?_, ⟨rfl, rfl, rfl, rfl⟩, ⟨rfl, rfl, rfl, rfl, rfl, rfl⟩, rfl, rfl, rfl⟩
    rw [step_access h, State.hostAccess_outside (a := ⟨.bus a, width, kind⟩) _ hnone]

/-- The pending command is the same, and so are the buffer registers unless a HostHazard is recorded
(spec/70_reset_and_hazards.md R133). -/
structure State.PendingHeld (s t : State) : Prop where
  pend : t.pend = s.pend
  v    : t.v = s.v ∨ t.faults.hostHazard = true

/-- While a command is pending a CMD write is an overrun and a buffer write a hazard. -/
theorem State.AccessEffect.pendingHeld {s t : State} {a : Access} (hb : s.busy = true) (h : s.AccessEffect a t) :
    s.PendingHeld t := by
  cases h with
  | outside | refused | read | readBusy | ignored | status | ctrl => exact ⟨rfl, .inl rfl⟩
  | cmd w => rw [State.submit_busy w hb]; exact ⟨rfl, .inl rfl⟩
  | len i w hr hidle | data i j w hr hidle => simp [hb] at hidle
  | hazard => exact ⟨rfl, .inr rfl⟩

theorem State.hostEvent_pendingHeld {s : State} {e : HostEvent} (hb : s.busy = true) (he : e ≠ .rst true) :
    s.PendingHeld (s.hostEvent e) := by
  cases e with
  | access a => exact (s.hostAccess_effect a).pendingHeld hb
  | poll =>
    obtain ⟨hp, hv⟩ := (s.hostAccess_effect ⟨.offset 0x008, .bits32, .read⟩).pendingHeld hb
    simp only [State.hostEvent, hb, if_true]
    exact ⟨hp, hv⟩
  | rst level =>
    cases level
    · exact ⟨rfl, .inl rfl⟩
    · exact absurd rfl he

/-- A step in which the pending command is not due and `rst` is not asserted. -/
theorem step_pendingHeld {s t : State} (hb : s.busy = true) (hw : s.readyWord = none) (h : step s = .next t)
    (hr : ∀ rest, s.host ≠ .rst true :: rest) : s.PendingHeld t := by
  obtain ⟨w, hw', -⟩ | ⟨-, -, rfl⟩ | ⟨e, rest, -, hq, rfl⟩ := step_cases h
  · simp [hw] at hw'
  · exact ⟨rfl, .inl rfl⟩
  · have he : e ≠ .rst true := by rintro rfl; exact hr rest hq
    obtain ⟨hp, hv⟩ := State.hostEvent_pendingHeld (s := s.took rest) hb he
    exact ⟨hp, hv⟩

/-- Settles O15: the results hold in every host step, and the rest because a command is pending. -/
theorem operandsHoldUntilCompletion : Obligations.OperandsHoldUntilCompletion := by
  intro s t w hpend hw hr h
  have hb : s.busy = true := by rw [State.busy, hpend]; rfl
  obtain ⟨hp, hv⟩ := step_pendingHeld hb hw h hr
  obtain ⟨hc, ho, hl, -⟩ := step_hostFrame hw h fun rest hturn => hr rest hturn.2
  exact ⟨hp.trans hpend, hc, ho, hl, hv⟩

end Sys2Proof.Machine
end

section
/-! The decoder and the encoder: each undoes the other, and the legal words of each mnemonic in terms of the five fields, as the
match and mask table has them and as a list that counts them (spec/30_encoding.md R66 to R75). -/

namespace Sys2Proof

open Sys2Proof.Machine

section roundTrip

variable {w : Word} {i : Instr}

/-- The raw fields of a command pass the checks, constructor by constructor (Sys2Proof.Laws.WellFormedRaw). -/
theorem Instr.wellFormed_eq_true : ∀ i : Instr, i.wellFormed = true
  | .nop => Laws.WellFormedRaw.nop
  | .and d a b => Laws.WellFormedRaw.and d a b
  | .or d a b => Laws.WellFormedRaw.or d a b
  | .not d a => Laws.WellFormedRaw.not d a
  | .card a b => Laws.WellFormedRaw.card a b
  | .fbin a => Laws.WellFormedRaw.fbin a
  | .fdec8 a => Laws.WellFormedRaw.fdec8 a
  | .fdec16 a => Laws.WellFormedRaw.fdec16 a
  | .fhex a => Laws.WellFormedRaw.fhex a
  | .fshex a => Laws.WellFormedRaw.fshex a
  | .fcnt => Laws.WellFormedRaw.fcnt

@[simp] theorem reg?_field (r : Reg) : reg? (Reg.field r) = some r := reg?_some.2 rfl

/-- A word whose fields are a command's raw fields decodes to that command: OP selects the row, and the row reads back the
operands. -/
theorem decode_of_fieldsAre (h : FieldsAre w i.raw) : decode w = .instr i := by
  obtain ⟨hop, hrsv, hrd, hrs1, hrs2⟩ := h
  cases i <;> simp [decode, hop, hrsv, hrd, hrs1, hrs2, Instr.raw, Op.code, decode0, decodeA, decodeAB, decodeDA, decodeDAB]

theorem decode_encode (i : Instr) : decode (encode i) = .instr i := decode_of_fieldsAre (encode_fields i)

theorem encode_of_decode (h : decode w = .instr i) : encode i = w := (encode_fields i).unique (decode_instr h)

end roundTrip

section legalWords

variable {w : Word} {op : Op}

/-- The fields of `w` are those of a legal word of the mnemonic `op` (spec/30_encoding.md R67, R68, R70). -/
structure LegalAs (w : Word) (op : Op) : Prop where
  code : fieldOp w = op.code
  rsv  : fieldRsv w = 0
  rd   : fieldOk op.usesRd (fieldRd w) = true
  rs1  : fieldOk op.usesRs1 (fieldRs1 w) = true
  rs2  : fieldOk op.usesRs2 (fieldRs2 w) = true

theorem RawCmd.wellFormed_iff (r : RawCmd) : r.wellFormed = true ↔ r.rsv = 0 ∧ fieldOk r.op.usesRd r.rd = true ∧
    fieldOk r.op.usesRs1 r.rs1 = true ∧ fieldOk r.op.usesRs2 r.rs2 = true := by
  simp only [RawCmd.wellFormed, Bool.and_eq_true, beq_iff_eq, and_assoc]

theorem legalAs_of_decode {i : Instr} (h : decode w = .instr i) : LegalAs w i.raw.op := by
  obtain ⟨hop, hrsv, hrd, hrs1, hrs2⟩ := decode_instr h
  obtain ⟨h0, hd, ha, hb⟩ := i.raw.wellFormed_iff.1 i.wellFormed_eq_true
  exact ⟨hop, hrsv.trans h0, hrd ▸ hd, hrs1 ▸ ha, hrs2 ▸ hb⟩

/-- Legal fields are the raw fields of some command of the mnemonic, which the decoder then gives. -/
theorem LegalAs.exists_decode (h : LegalAs w op) : ∃ i, decode w = .instr i ∧ i.raw.op = op := by
  obtain ⟨i, hi⟩ := raw_surj ⟨op, fieldRsv w, fieldRd w, fieldRs1 w, fieldRs2 w⟩
    ((RawCmd.wellFormed_iff _).2 ⟨h.rsv, h.rd, h.rs1, h.rs2⟩)
  refine ⟨i, decode_of_fieldsAre ?_, by rw [hi]⟩
  rw [hi]
  exact ⟨h.code, rfl, rfl, rfl, rfl⟩

theorem legalAs_iff : LegalAs w op ↔ ∃ i, decode w = .instr i ∧ i.raw.op = op := by
  refine ⟨LegalAs.exists_decode, ?_⟩
  rintro ⟨i, h, rfl⟩
  exact legalAs_of_decode h

theorem exists_legalAs_iff : (∃ op, LegalAs w op) ↔ ∃ i, decode w = .instr i :=
  ⟨fun ⟨_, h⟩ => h.exists_decode.imp fun _ hi => hi.1, fun ⟨i, h⟩ => ⟨i.raw.op, legalAs_of_decode h⟩⟩

theorem exists_illegal_iff : (∃ why, decode w = .illegal why) ↔ ∀ op, ¬ LegalAs w op := by
  rw [← not_exists, exists_legalAs_iff]
  cases decode w <;> simp

/-- The three ways in which the fields of a word can be illegal (spec/30_encoding.md R73). OP names at most one mnemonic, so
that one's use of the fields is the one that counts. -/
theorem forall_not_legalAs_iff : (∀ op, ¬ LegalAs w op) ↔
    fieldRsv w ≠ 0 ∨ (∀ op : Op, fieldOp w ≠ op.code) ∨ ∃ op : Op, fieldOp w = op.code ∧
      (fieldOk op.usesRd (fieldRd w) && fieldOk op.usesRs1 (fieldRs1 w) && fieldOk op.usesRs2 (fieldRs2 w)) = false := by
  constructor
  · intro h
    by_contra! hn
    obtain ⟨hrsv, ⟨op, hop⟩, hfields⟩ := hn
    have hok := hfields op hop
    simp only [ne_eq, Bool.not_eq_false, Bool.and_eq_true] at hok
    obtain ⟨⟨hd, ha⟩, hb⟩ := hok
    exact h op ⟨hop, hrsv, hd, ha, hb⟩
  · rintro (h | h | ⟨op', hop', h⟩) op ⟨hop, hrsv, hd, ha, hb⟩
    · exact h hrsv
    · exact h op hop
    · obtain rfl := op_code_inj (hop'.symm.trans hop)
      simp [hd, ha, hb] at h

end legalWords

section matchTable

/-- The mask bits of a register field: bit 3 of a used one must be 0, and all of an unused one. -/
def regMask (used : Bool) : BitVec 4 := if used then 0x8 else 0xF

theorem and_regMask_eq_zero_iff : ∀ (used : Bool) (f : BitVec 4), f &&& regMask used = 0 ↔ fieldOk used f = true := by decide

/-- The table's masks look at all of OP and RSV, and at the register fields as their use requires. -/
theorem rows_mask_fields : ∀ r ∈ rows, fieldOp r.mask = BitVec.allOnes 8 ∧ fieldRsv r.mask = BitVec.allOnes 12 ∧
    fieldRd r.mask = regMask r.op.usesRd ∧ fieldRs1 r.mask = regMask r.op.usesRs1 ∧
    fieldRs2 r.mask = regMask r.op.usesRs2 := by decide

theorem rows_bits_fields : ∀ r ∈ rows, fieldOp r.bits = r.op.code ∧ fieldRsv r.bits = 0 ∧ fieldRd r.bits = 0 ∧
    fieldRs1 r.bits = 0 ∧ fieldRs2 r.bits = 0 := by decide

theorem exists_row (op : Op) : ∃ r ∈ rows, r.op = op := by cases op <;> decide

/-- Masking a word masks each field. -/
theorem matches_iff_fields (r : Row) (w : Word) : r.matches w = true ↔
    fieldOp w &&& fieldOp r.mask = fieldOp r.bits ∧ fieldRsv w &&& fieldRsv r.mask = fieldRsv r.bits ∧
    fieldRd w &&& fieldRd r.mask = fieldRd r.bits ∧ fieldRs1 w &&& fieldRs1 r.mask = fieldRs1 r.bits ∧
    fieldRs2 w &&& fieldRs2 r.mask = fieldRs2 r.bits := by
  simp only [Row.matches, beq_iff_eq, fieldOp, fieldRsv, fieldRd, fieldRs1, fieldRs2, ← BitVec.extractLsb'_and]
  exact ⟨fun h => by simp [h], fun ⟨h1, h2, h3, h4, h5⟩ => word_ext h1 h2 h3 h4 h5⟩

theorem matches_iff_legalAs {r : Row} (hr : r ∈ rows) (w : Word) : r.matches w = true ↔ LegalAs w r.op := by
  obtain ⟨mop, mrsv, mrd, mrs1, mrs2⟩ := rows_mask_fields r hr
  obtain ⟨bop, brsv, brd, brs1, brs2⟩ := rows_bits_fields r hr
  rw [matches_iff_fields, mop, mrsv, mrd, mrs1, mrs2, bop, brsv, brd, brs1, brs2, BitVec.and_allOnes, BitVec.and_allOnes,
    and_regMask_eq_zero_iff, and_regMask_eq_zero_iff, and_regMask_eq_zero_iff]
  exact ⟨fun ⟨h1, h2, h3, h4, h5⟩ => ⟨h1, h2, h3, h4, h5⟩, fun ⟨h1, h2, h3, h4, h5⟩ => ⟨h1, h2, h3, h4, h5⟩⟩

end matchTable

section counting

variable {w : Word} {op : Op}

/-- The word with the raw fields `r` (spec/30_encoding.md R66). -/
def RawCmd.word (r : RawCmd) : Word := r.op.code ++ r.rsv ++ r.rd ++ r.rs1 ++ r.rs2

/-- Bit by bit: `++` puts each field where its `extractLsb'` looks. -/
theorem RawCmd.word_fields (r : RawCmd) : FieldsAre r.word r := by
  simp only [FieldsAre, RawCmd.word, fieldOp, fieldRsv, fieldRd, fieldRs1, fieldRs2]
  refine ⟨?_, ?_, ?_, ?_, ?_⟩ <;> ext k hk <;> grind

/-- A word has one choice of raw fields. -/
theorem FieldsAre.raw_unique {r r' : RawCmd} (h : FieldsAre w r) (h' : FieldsAre w r') : r = r' := by
  obtain ⟨hop, hrsv, hrd, hrs1, hrs2⟩ := h
  obtain ⟨hop', hrsv', hrd', hrs1', hrs2'⟩ := h'
  cases r
  cases r'
  rw [RawCmd.mk.injEq]
  exact ⟨op_code_inj (hop.symm.trans hop'), hrsv.symm.trans hrsv', hrd.symm.trans hrd', hrs1.symm.trans hrs1',
    hrs2.symm.trans hrs2'⟩

theorem RawCmd.word_injective : Function.Injective RawCmd.word := fun r r' h =>
  r.word_fields.raw_unique (h ▸ r'.word_fields)

/-- The legal values of a register field (spec/30_encoding.md R67). -/
def fieldValues (used : Bool) : List (BitVec 4) := ((List.range 16).map (BitVec.ofNat 4)).filter (fieldOk used)

theorem mem_fieldValues : ∀ {used : Bool} {f : BitVec 4}, f ∈ fieldValues used ↔ fieldOk used f = true := by decide

theorem fieldValues_nodup : ∀ used : Bool, (fieldValues used).Nodup := by decide

/-- The raw command of the mnemonic `op` with RSV = 0 and the register fields `f`. -/
def rawOf (op : Op) (f : BitVec 4 × BitVec 4 × BitVec 4) : RawCmd := ⟨op, 0, f.1, f.2.1, f.2.2⟩

/-- The legal words of a mnemonic: every legal value of each register field. -/
def legalWords (op : Op) : List Word :=
  (fieldValues op.usesRd ×ˢ fieldValues op.usesRs1 ×ˢ fieldValues op.usesRs2).map fun f => (rawOf op f).word

theorem mem_legalWords : w ∈ legalWords op ↔ LegalAs w op := by
  simp only [legalWords, List.mem_map, Prod.exists, List.mem_product, mem_fieldValues]
  constructor
  · rintro ⟨rd, a, b, ⟨hd, ha, hb⟩, rfl⟩
    obtain ⟨hop, hrsv, hrd, hrs1, hrs2⟩ := (rawOf op (rd, a, b)).word_fields
    exact ⟨hop, hrsv, hrd ▸ hd, hrs1 ▸ ha, hrs2 ▸ hb⟩
  · intro h
    exact ⟨fieldRd w, fieldRs1 w, fieldRs2 w, ⟨h.rd, h.rs1, h.rs2⟩,
      (rawOf op _).word_fields.unique ⟨h.code, h.rsv, rfl, rfl, rfl⟩⟩

theorem legalWords_nodup (op : Op) : (legalWords op).Nodup := by
  refine ((fieldValues_nodup _).product ((fieldValues_nodup _).product (fieldValues_nodup _))).map fun f g h => ?_
  simpa [rawOf, Prod.ext_iff] using RawCmd.word_injective h

/-- The count of a mnemonic: 8 for each register field it uses. -/
theorem legalWords_length (op : Op) : (legalWords op).length =
    (fieldValues op.usesRd).length * ((fieldValues op.usesRs1).length * (fieldValues op.usesRs2).length) := by
  simp only [legalWords, List.length_map, List.length_product]

/-- A word is legal for one mnemonic only. -/
theorem LegalAs.unique {op' : Op} (h : LegalAs w op) (h' : LegalAs w op') : op = op' :=
  op_code_inj (h.code.symm.trans h'.code)

/-- Every mnemonic. -/
def allOps : List Op := [.nop, .and, .or, .not, .card, .fbin, .fdec8, .fdec16, .fhex, .fshex, .fcnt]

theorem mem_allOps (op : Op) : op ∈ allOps := by cases op <;> decide

/-- All legal words, mnemonic by mnemonic. -/
def allLegalWords : List Word := allOps.flatMap legalWords

theorem mem_allLegalWords : w ∈ allLegalWords ↔ ∃ i, decode w = .instr i := by
  simp only [allLegalWords, List.mem_flatMap, mem_allOps, true_and, mem_legalWords, exists_legalAs_iff]

theorem allLegalWords_nodup : allLegalWords.Nodup :=
  List.nodup_flatMap.2 ⟨fun op _ => legalWords_nodup op, (show allOps.Nodup by decide).imp fun hne _ h h' =>
    hne ((mem_legalWords.1 h).unique (mem_legalWords.1 h'))⟩

theorem allLegalWords_length : allLegalWords.length = 1194 := by
  simp only [allLegalWords, List.length_flatMap, legalWords_length]
  decide

/-- The legal words that decode to the mnemonic are `legalWords`: neither list repeats a word. -/
theorem allLegalWords_filter_length (op : Op) :
    (allLegalWords.filter fun w => (decode w).instr?.map (·.raw.op) = some op).length = (legalWords op).length := by
  refine List.Perm.length_eq ((List.perm_ext_iff_of_nodup (allLegalWords_nodup.filter _) (legalWords_nodup op)).2 fun w => ?_)
  rw [List.mem_filter, mem_allLegalWords, mem_legalWords, legalAs_iff]
  cases decode w <;> simp [Decoded.instr?]

end counting

/-- Settles O6: both directions go through the word's five fields, which are the command's raw fields. -/
theorem decodeEncodeRoundTrip : Obligations.DecodeEncodeRoundTrip :=
  ⟨fun i _ => decode_encode i, fun _ i h => ⟨i.wellFormed_eq_true, encode_of_decode h⟩⟩

/-- Settles O7: a row's match and a command of the row's mnemonic both say that the fields are legal for it. -/
theorem decodeAgreesWithMatchTable : Obligations.DecodeAgreesWithMatchTable := by
  refine fun w => ⟨fun r hr => (matches_iff_legalAs hr w).trans legalAs_iff, fun i h => ?_⟩
  obtain ⟨r, hr, hop⟩ := exists_row i.raw.op
  exact ⟨r, hr, (matches_iff_legalAs hr w).2 (hop ▸ legalAs_of_decode h)⟩

theorem engineStep_illegal {w : Word} {why : Illegal} (h : decode w = .illegal why) (s : State) :
    engineStep w s = .next s.completeIllegal := by
  rw [engineStep, h]

/-- Settles O8: a word is illegal when it is legal for no mnemonic, and the legal words are listed and counted. -/
theorem illegalWordsAreThoseListed : Obligations.IllegalWordsAreThoseListed := by
  refine ⟨fun w => exists_illegal_iff.trans forall_not_legalAs_iff, fun w why s h => ?_,
    allLegalWords, allLegalWords_nodup, allLegalWords_length, fun w => mem_allLegalWords, fun p hp => ?_⟩
  · exact ⟨_, engineStep_illegal h s, ⟨rfl, rfl, rfl, rfl⟩, ⟨rfl, rfl, rfl, rfl⟩,
      ⟨rfl, rfl, rfl, rfl, rfl, rfl, rfl, rfl⟩, rfl⟩
  · rw [allLegalWords_filter_length, legalWords_length]
    revert p
    decide

/-- Settles O9: each word is the encoding of its command. -/
theorem sampleWordsDecode : Obligations.SampleWordsDecode :=
  ⟨decode_encode .nop, decode_encode (.and 2 0 1), decode_encode (.or 7 7 7), decode_encode (.not 7 0),
    decode_encode (.card 7 7), decode_encode (.fshex 7), decode_encode .fcnt⟩

end Sys2Proof
end

section
/-! AND, OR and NOT on written operands of one length, and what the three commands of `range` leave (spec/41_bitwise.md R85 to
R87, spec/30_encoding.md R76). -/

namespace Sys2Proof.Machine

section bytewise

variable {f g : Byte → Byte → Byte}

/-- A byte-wise bound carries over to the integer views. -/
theorem uint_zipWith_le (h : ∀ x y, (f x y).toNat ≤ (g x y).toNat) (xs ys : List Byte) :
    uint (List.zipWith f xs ys) ≤ uint (List.zipWith g xs ys) := by
  induction xs generalizing ys with
  | nil => simp
  | cons x xs ih =>
    cases ys with
    | nil => simp
    | cons y ys =>
      simp only [List.zipWith_cons_cons, uint_cons, List.length_zipWith]
      exact Nat.add_le_add (Nat.mul_le_mul_right _ (h x y)) (ih ys)

theorem and_toNat_le_or_toNat (x y z : Byte) : (x &&& y).toNat ≤ (x ||| z).toNat := by
  rw [BitVec.toNat_and, BitVec.toNat_or]
  exact Nat.and_le_left.trans Nat.left_le_or

end bytewise

/-- From `s` to `t` a bitwise command wrote the value `bs` to register `d`: it read written bytes only and completed with
ERR = 0. -/
structure State.Wrote (s t : State) (d : Reg) (bs : List Byte) : Prop where
  hazard : t.hazard = false
  err    : t.err = 0
  faults : t.faults = s.faults
  ready  : (t.buf d).ready = true
  bytes  : (t.buf d).bytes = bs
  other  : ∀ r, r ≠ d → t.buf r = s.buf r

section wrote

variable {s : State} {d a b : Reg}

/-- The lanes of a result below its length. -/
theorem resultLanes_take {n : Fin 17} {f : Fin 16 → Byte} {bs : List Byte} (hn : bs.length = n.val)
    (h : ∀ (k : Nat) (hk : k < bs.length), f ⟨k, by omega⟩ = bs[k]) : (resultLanes n f).toList.take n.val = bs := by
  have := n.isLt
  refine List.ext_getElem (by simp; omega) fun k h1 h2 => ?_
  have hk : k < 16 := by omega
  have hlane := resultLanes_getElem n f ⟨k, hk⟩
  rw [if_pos (show k < n.val by omega), h k h2] at hlane
  simpa using hlane

/-- The write and the completion of a bitwise command. -/
theorem State.wrote_of_resultLanes {n : Fin 17} {f : Fin 16 → Byte} {bs : List Byte} (hz : s.hazard = false) (d : Reg)
    (hn : bs.length = n.val) (h : ∀ (k : Nat) (hk : k < bs.length), f ⟨k, by omega⟩ = bs[k]) :
    s.Wrote ((s.writeBuf d n (resultLanes n f)).complete errOk) d bs where
  hazard := State.complete_hazard _ _
  err := rfl
  faults := rfl
  ready := by
    rw [State.complete_buf, State.writeBuf_self hz, Buffer.ready_iff]
    exact fun k _ => Buffer.written_all n _ k
  bytes := by
    rw [State.complete_buf, State.writeBuf_self hz]
    exact resultLanes_take hn h
  other r hr := (State.complete_buf _ _ r).trans (State.writeBuf_other s n _ hr)

theorem State.bitwise2_wrote (f : Byte → Byte → Byte) (d : Reg) (hz : s.hazard = false) (ha : (s.buf a).ready = true)
    (hb : (s.buf b).ready = true) (hl : (s.buf a).len = (s.buf b).len) :
    s.Wrote (s.bitwise2 f d a b) d (List.zipWith f (s.buf a).bytes (s.buf b).bytes) := by
  have hview : (s.view 0 a).len = (s.view 1 b).len := by rw [State.view_len 0 hz, State.view_len 1 hz, hl]
  rw [State.bitwise2_eq hview, State.noteRead_ready 0 hz ha, State.noteRead_ready 1 hz hb, ← State.view_bytes 0 hz ha,
    ← State.view_bytes 1 hz hb]
  refine State.wrote_of_resultLanes hz d ?_ fun k hk => ?_
  · simp [hview]
  · rw [List.getElem_zipWith, View.bytes_getElem, View.bytes_getElem]

theorem exec_not_wrote (d : Reg) (hz : s.hazard = false) (ha : (s.buf a).ready = true) :
    ∃ t, exec (.not d a) s = .next t ∧ s.Wrote t d ((s.buf a).bytes.map (· ^^^ 0xFF)) := by
  refine ⟨_, rfl, ?_⟩
  rw [State.noteRead_ready 0 hz ha, ← State.view_bytes 0 hz ha]
  refine State.wrote_of_resultLanes hz d ?_ fun k hk => ?_
  · simp
  · rw [List.getElem_map, View.bytes_getElem]

theorem exec_and_wrote (d : Reg) (hz : s.hazard = false) (ha : (s.buf a).ready = true) (hb : (s.buf b).ready = true)
    (hl : (s.buf a).len = (s.buf b).len) :
    ∃ t, exec (.and d a b) s = .next t ∧ s.Wrote t d (List.zipWith (· &&& ·) (s.buf a).bytes (s.buf b).bytes) :=
  ⟨_, rfl, State.bitwise2_wrote _ d hz ha hb hl⟩

theorem exec_or_wrote (d : Reg) (hz : s.hazard = false) (ha : (s.buf a).ready = true) (hb : (s.buf b).ready = true)
    (hl : (s.buf a).len = (s.buf b).len) :
    ∃ t, exec (.or d a b) s = .next t ∧ s.Wrote t d (List.zipWith (· ||| ·) (s.buf a).bytes (s.buf b).bytes) :=
  ⟨_, rfl, State.bitwise2_wrote _ d hz ha hb hl⟩

end wrote

theorem runCommands_cons {i : Instr} {s t : State} (h : exec i s = .next t) (is : List Instr) :
    runCommands (i :: is) s = runCommands is t := by
  rw [runCommands, h]

theorem RangeCmd.wellFormed_iff (r : RangeCmd) :
    r.wellFormed = true ↔ r.f ≠ r.a ∧ r.f ≠ r.m ∧ r.f ≠ r.t ∧ r.f ≠ r.l ∧ r.t ≠ r.a := by
  simp only [RangeCmd.wellFormed, Bool.and_eq_true, bne_iff_ne, and_assoc]

/-- Settles O45: the operand conditions keep the address and the mask until they are read and the first result to the end, so
each command works on the values the statement names; the AND of a byte is at most its OR with anything. -/
theorem rangeGivesFirstAndLast : Obligations.RangeGivesFirstAndLast := by
  intro s r hwf hz ha hm hlen
  obtain ⟨hfa, hfm, hft, hfl, hta⟩ := (RangeCmd.wellFormed_iff r).1 hwf
  obtain ⟨s1, e1, w1⟩ := exec_and_wrote r.f hz ha hm hlen
  have hm1 : s1.buf r.m = s.buf r.m := w1.other r.m hfm.symm
  obtain ⟨s2, e2, w2⟩ := exec_not_wrote r.t w1.hazard (hm1 ▸ hm)
  have ha2 : s2.buf r.a = s.buf r.a := (w2.other r.a hta.symm).trans (w1.other r.a hfa.symm)
  have ht2 : (s2.buf r.t).bytes = (s.buf r.m).bytes.map (· ^^^ 0xFF) := by rw [w2.bytes, hm1]
  have hlen2 : (s2.buf r.a).len = (s2.buf r.t).len := by
    rw [ha2, hlen, Fin.ext_iff, ← Buffer.bytes_length, ← Buffer.bytes_length (s2.buf r.t), ht2, List.length_map]
  obtain ⟨s3, e3, w3⟩ := exec_or_wrote r.l w2.hazard (ha2 ▸ ha) w2.ready hlen2
  have hfirst : (s3.buf r.f).bytes = List.zipWith (fun x y => x &&& y) (s.buf r.a).bytes (s.buf r.m).bytes := by
    rw [w3.other r.f hfl, w2.other r.f hft, w1.bytes]
  have hlast : (s3.buf r.l).bytes = List.zipWith (fun x y => x ||| (y ^^^ 0xFF)) (s.buf r.a).bytes (s.buf r.m).bytes := by
    rw [w3.bytes, ha2, ht2, List.zipWith_map_right]
  refine ⟨s3, ?_, w3.err, w3.faults.trans (w2.faults.trans w1.faults), hfirst, hlast, ?_⟩
  · rw [RangeCmd.expand, runCommands_cons e1, runCommands_cons e2, runCommands_cons e3, runCommands]
  · rw [hfirst, hlast]
    exact uint_zipWith_le (fun x y => and_toNat_le_or_toNat x y _) _ _

end Sys2Proof.Machine
end

section
/-! How a command runs: a CMD write is accepted or an overrun (spec/40_command_execution.md R78), the step of a due command is its
completion (R77, R79), and a completion that only reports its result code changes nothing but STATUS (R80, R81). -/

namespace Sys2Proof.Machine

section cmdWrite

variable {s : State} {w : Word} {rest : List HostEvent}

theorem step_cmdWrite (hr : s.rst = false) (h : s.HostTurn (.W 0x004 w) rest) :
    step s = .next ((s.took rest).submit w) := step_write hr h rfl rfl (by decide)

theorem State.busy_eq_true (h : s.pend ≠ none) : s.busy = true := Option.isSome_iff_ne_none.2 h

end cmdWrite

/-- Settles O11: the step is `submit`, which an idle engine accepts and a busy one counts as an overrun. -/
theorem cmdWriteSubmits : Obligations.CmdWriteSubmits := by
  intro s w rest h hr
  refine ⟨_, step_cmdWrite hr h, ?_⟩
  by_cases hp : s.pend = none
  · rw [State.submit_idle (s := s.took rest) w (State.busy_eq_false hp)]
    exact ⟨⟨rfl, rfl, rfl, rfl⟩, rfl, rfl, rfl, rfl, rfl, rfl, rfl, rfl, rfl, fun _ => ⟨rfl, rfl⟩, fun hn => absurd hp hn⟩
  · rw [State.submit_busy (s := s.took rest) w (State.busy_eq_true hp)]
    exact ⟨⟨rfl, rfl, rfl, rfl⟩, rfl, rfl, rfl, rfl, rfl, rfl, rfl, rfl, rfl, fun hn => absurd hn hp, fun _ => ⟨rfl, rfl⟩⟩

section completion

variable {s t : State}

/-- A bare completion takes its result code and writes nothing but STATUS. -/
theorem State.complete_onlyStatus (s : State) (e : BitVec 4) : s.Completed (s.complete e) e ∧ s.SameData (s.complete e) ∧
    s.SameControl (s.complete e) ∧ (s.complete e).faults = s.faults :=
  ⟨⟨rfl, rfl, rfl, rfl⟩, ⟨rfl, rfl, rfl, rfl⟩, ⟨rfl, rfl, rfl, rfl, rfl, rfl, rfl, rfl⟩, rfl⟩

/-- AND and OR end with an error only when the lengths differ, before a data byte is read (spec/60_exceptions.md R116). -/
theorem State.bitwise2_of_err_ne_zero {f : Byte → Byte → Byte} {d a b : Reg} (h : (s.bitwise2 f d a b).err ≠ 0) :
    s.bitwise2 f d a b = s.complete errLengthMismatch := by
  refine State.bitwise2_ne fun hlen => h ?_
  rw [State.bitwise2_eq hlen]
  rfl

/-- The only error of a legal command is the length mismatch of AND and OR. -/
theorem exec_of_err_ne_zero {i : Instr} (h : exec i s = .next t) (he : t.err ≠ 0) : t = s.complete errLengthMismatch := by
  cases i with
  | and | or => cases h; exact State.bitwise2_of_err_ne_zero he
  | not => cases h; exact absurd rfl he
  | nop | card | fbin | fdec8 | fdec16 | fhex | fshex | fcnt =>
    have hok : s.Completed t errOk := (effect_of_exec h).completed.resolve_right fun ⟨hdest, _⟩ => hdest rfl
    exact absurd hok.err he

theorem engineStep_of_err_ne_zero {w : Word} (h : engineStep w s = .next t) (he : t.err ≠ 0) : ∃ e, t = s.complete e := by
  obtain ⟨i, -, hi⟩ | ⟨-, -, ht⟩ := engineStep_cases h
  · exact ⟨_, exec_of_err_ne_zero hi he⟩
  · exact ⟨_, ht⟩

end completion

/-- Settles O37: a completion with an error is a bare one, be it of an illegal word or of AND or OR on unequal lengths. -/
theorem errorChangesOnlyStatus : Obligations.ErrorChangesOnlyStatus := by
  intro w s t h he
  obtain ⟨e, rfl⟩ := engineStep_of_err_ne_zero h he
  obtain ⟨hcompleted, hdata, hcontrol, hfaults⟩ := s.complete_onlyStatus e
  exact ⟨hdata, hcontrol, hfaults, hcompleted⟩

/-- Settles O16: NOP is the bare completion with ERR = 0. -/
theorem nopWritesOnlyStatus : Obligations.NopWritesOnlyStatus :=
  fun s => ⟨_, rfl, s.complete_onlyStatus errOk⟩

section due

variable {s : State} {w : Word}

theorem engineStep_instr {i : Instr} (h : decode w = .instr i) (s : State) : engineStep w s = exec i s := by
  rw [engineStep, h]

/-- No command due: the step is the host's, whether or not an event is queued. -/
theorem step_host (h : s.readyWord = none) : step s = .next s.hostStep := by
  rw [step, h]

theorem State.placeCommand_readyWord (s : State) (w : Word) : (s.placeCommand w).readyWord = some w :=
  (State.readyWord_some_iff _ w).2 ⟨rfl, rfl, rfl⟩

theorem State.withFetchWord_of_lt {n : Nat} (s : State) (h : n < 2 ^ 32) :
    s.withFetchWord 32 n = s.placeCommand (BitVec.ofNat 32 n) := by
  rw [State.withFetchWord, Nat.mod_eq_of_lt h]

end due

/-- Settles O10: who moves is `readyWord`, and a placed word is due. -/
theorem stepCompletesDueCommand : Obligations.StepCompletesDueCommand := by
  refine ⟨fun s w hpend hwait hr => ?_, fun s h => step_host (s.readyWord_none_iff.2 h), fun s n i hn hi => ?_⟩
  · rw [step_engine ((s.readyWord_some_iff w).2 ⟨hpend, hwait, hr⟩)]
    exact ⟨fun i hi => engineStep_instr hi s,
      fun why hi => ⟨_, engineStep_illegal hi s, s.complete_onlyStatus errIllegalCommand⟩⟩
  · rw [State.withFetchWord_of_lt s hn, step_engine (s.placeCommand_readyWord _), engineStep_instr hi]

end Sys2Proof.Machine
end

section
/-! The bitwise unit: what AND, OR and NOT leave in the machine (spec/41_bitwise.md R85 to R88), and the laws of their values
(R91). -/

namespace Sys2Proof.Machine

/-- From `s` to `t` a bitwise command completed with ERR = 0 and wrote `n` lanes of `f` to register `d`, with zeros above them,
and nothing else. -/
structure State.WroteLanes (s t : State) (d : Reg) (n : Fin 17) (f : Fin 16 → Byte) : Prop where
  completed : s.Completed t 0
  control   : s.SameControl t
  len       : (t.buf d).len = n
  below     : ∀ k : Fin 16, k.val < n.val → (t.buf d).byte k = f k
  above     : ∀ k : Fin 16, n.val ≤ k.val → (t.buf d).byte k = 0x00
  written   : ∀ k : Fin 16, (t.buf d).written k = true
  other     : ∀ r : Reg, r ≠ d → t.buf r = s.buf r
  cnt       : t.cnt = s.cnt
  out       : t.out = s.out
  outlen    : t.outlen = s.outlen

section results

variable {s : State} {d a b : Reg}

/-- The write and the completion of a bitwise command, whether or not its reads were noted as unwritten. -/
theorem State.wroteLanes_of_resultLanes (hz : s.hazard = false) (u : Bool) (d : Reg) (n : Fin 17) (f : Fin 16 → Byte) :
    s.WroteLanes (((s.noted u).writeBuf d n (resultLanes n f)).complete errOk) d n f := by
  have hz' : (s.noted u).hazard = false := hz
  have hd : (((s.noted u).writeBuf d n (resultLanes n f)).complete errOk).buf d =
      ⟨n, resultLanes n f, Vector.replicate 16 true⟩ := by
    rw [State.complete_buf, State.writeBuf_self hz']
  exact {
    completed := ⟨rfl, rfl, rfl, rfl⟩
    control := ⟨rfl, rfl, rfl, rfl, rfl, rfl, rfl, rfl⟩
    len := by rw [hd]
    below := fun k hk => by rw [hd, Buffer.byte_resultLanes, if_pos hk]
    above := fun k hk => by rw [hd, Buffer.byte_resultLanes, if_neg (by omega)]
    written := fun k => by rw [hd, Buffer.written_all]
    other := fun r hr => (State.complete_buf _ _ r).trans (State.writeBuf_other _ n _ hr)
    cnt := rfl
    out := rfl
    outlen := rfl }

theorem State.view_len_eq_iff (hz : s.hazard = false) (a b : Reg) :
    (s.view 0 a).len = (s.view 1 b).len ↔ (s.buf a).len = (s.buf b).len := by
  rw [State.view_len 0 hz, State.view_len 1 hz]

theorem State.bitwise2_wroteLanes (f : Byte → Byte → Byte) (d : Reg) (hz : s.hazard = false)
    (hl : (s.buf a).len = (s.buf b).len) :
    s.WroteLanes (s.bitwise2 f d a b) d (s.buf a).len fun k => f ((s.view 0 a).byte k) ((s.view 1 b).byte k) := by
  rw [State.bitwise2_eq ((State.view_len_eq_iff hz a b).2 hl), State.noteRead_noteRead, State.view_len 0 hz]
  exact State.wroteLanes_of_resultLanes hz _ d _ _

theorem exec_not_wroteLanes (d a : Reg) (hz : s.hazard = false) :
    ∃ t, exec (.not d a) s = .next t ∧ s.WroteLanes t d (s.buf a).len fun k => (s.view 0 a).byte k ^^^ 0xFF := by
  refine ⟨_, rfl, ?_⟩
  rw [State.view_len 0 hz]
  exact State.wroteLanes_of_resultLanes hz _ d _ _

/-- R85, R86 and R88 for any byte operation: a lane of which both operands were written holds their result. -/
theorem State.bitwise2_result (f : Byte → Byte → Byte) (d : Reg) (hz : s.hazard = false)
    (hl : (s.buf a).len = (s.buf b).len) :
    let t := s.bitwise2 f d a b
    s.Completed t 0 ∧ s.SameControl t ∧ (t.buf d).len = (s.buf a).len ∧
      (∀ k : Fin 16, k.val < (s.buf a).len.val → (s.buf a).written k = true → (s.buf b).written k = true →
        (t.buf d).byte k = f ((s.buf a).byte k) ((s.buf b).byte k)) ∧
      (∀ k : Fin 16, (s.buf a).len.val ≤ k.val → (t.buf d).byte k = 0x00) ∧ (∀ k : Fin 16, (t.buf d).written k = true) ∧
      (∀ r : Reg, r ≠ d → t.buf r = s.buf r) ∧ t.cnt = s.cnt ∧ t.out = s.out ∧ t.outlen = s.outlen := by
  have h := State.bitwise2_wroteLanes f d hz hl
  refine ⟨h.completed, h.control, h.len, fun k hk ha hb => ?_, h.above, h.written, h.other, h.cnt, h.out, h.outlen⟩
  rw [h.below k hk, State.view_byte_written 0 hz ha, State.view_byte_written 1 hz hb]

end results

/-- Settles O17: AND is `bitwise2` of the conjunction. -/
theorem andResult : Obligations.AndResult :=
  fun _ d _ _ hz hl => ⟨_, rfl, State.bitwise2_result _ d hz hl⟩

/-- Settles O18: OR is `bitwise2` of the disjunction. -/
theorem orResult : Obligations.OrResult :=
  fun _ d _ _ hz hl => ⟨_, rfl, State.bitwise2_result _ d hz hl⟩

/-- Settles O19: the lanes of NOT are those of its operand XOR 0xFF, and a written byte reads as the register holds it. -/
theorem notResult : Obligations.NotResult := by
  intro s d a hz
  obtain ⟨t, ht, h⟩ := exec_not_wroteLanes d a hz
  refine ⟨t, ht, h.completed, h.control, h.len, fun k hk ha => ?_, h.above, h.written, h.other, h.cnt, h.out, h.outlen⟩
  rw [h.below k hk, State.view_byte_written 0 hz ha]

/-- Settles O20: AND and OR of different lengths are a bare completion, whatever their byte operation. -/
theorem lengthMismatchWritesOnlyStatus : Obligations.LengthMismatchWritesOnlyStatus := by
  intro s d a b hz hl i hi
  have hstop (f : Byte → Byte → Byte) : s.bitwise2 f d a b = s.complete errLengthMismatch :=
    State.bitwise2_ne fun h => hl ((State.view_len_eq_iff hz a b).1 h)
  have hexec : exec i s = .next (s.complete errLengthMismatch) := by
    simp only [List.mem_cons, List.not_mem_nil, or_false] at hi
    obtain rfl | rfl := hi <;> exact congrArg Host.Outcome.next (hstop _)
  exact ⟨_, hexec, s.complete_onlyStatus errLengthMismatch⟩

section values

/-- Combining with the right operand twice combines byte by byte. -/
theorem zipWith_zipWith_same_right (f g : Byte → Byte → Byte) (xs ms : List Byte) :
    List.zipWith f (List.zipWith g xs ms) ms = List.zipWith (fun x m => f (g x m) m) xs ms := by
  rw [List.zipWith_zipWith_left, List.zipWith3_same_right]

/-- R91 law 1 on values. -/
theorem and_mask_idempotent (xs ms : List Byte) :
    List.zipWith (· &&& ·) (List.zipWith (· &&& ·) xs ms) ms = List.zipWith (· &&& ·) xs ms := by
  simp only [zipWith_zipWith_same_right, BitVec.and_assoc, BitVec.and_self]

/-- R91 law 2 on values. -/
theorem invert_involutive (xs : List Byte) : (xs.map (· ^^^ 0xFF)).map (· ^^^ 0xFF) = xs := by
  have hbyte (x : Byte) : x ^^^ 0xFF ^^^ 0xFF = x := by rw [BitVec.xor_assoc, BitVec.xor_self, BitVec.xor_zero]
  simp only [List.map_map, Function.comp_def, hbyte, List.map_id']

/-- A bit the mask `m` clears is set by its inverse anyway. -/
theorem and_or_invert (x m : Byte) : x &&& m ||| m ^^^ 0xFF = x ||| m ^^^ 0xFF := by
  rw [show (0xFF : Byte) = BitVec.allOnes 8 from rfl, BitVec.xor_allOnes]
  ext k hk
  simp only [BitVec.getElem_or, BitVec.getElem_and, BitVec.getElem_not]
  cases m[k] <;> simp

/-- R91 law 3 on values. -/
theorem and_mask_or_invert (xs ms : List Byte) :
    List.zipWith (· ||| ·) (List.zipWith (· &&& ·) xs ms) (ms.map (· ^^^ 0xFF)) =
      List.zipWith (· ||| ·) xs (ms.map (· ^^^ 0xFF)) := by
  simp only [List.zipWith_map_right, zipWith_zipWith_same_right, and_or_invert]

end values

section laws

variable {s t : State} {d e g n x m : Reg} {bs : List Byte}

theorem State.Wrote.len_eq (h : s.Wrote t d bs) {c : Fin 17} (hc : bs.length = c.val) : (t.buf d).len = c := by
  rw [Fin.ext_iff, ← Buffer.bytes_length, h.bytes, hc]

/-- R91 law 1: the second AND reads the mask again, so the first must not overwrite it. -/
theorem exec_and_and (e : Reg) (hz : s.hazard = false) (hx : (s.buf x).ready = true) (hm : (s.buf m).ready = true)
    (hl : (s.buf x).len = (s.buf m).len) (hdm : d ≠ m) :
    ∃ t t', exec (.and d x m) s = .next t ∧ exec (.and e d m) t = .next t' ∧ t'.err = 0 ∧
      (t'.buf e).bytes = (t.buf d).bytes := by
  obtain ⟨t, ht, w⟩ := exec_and_wrote d hz hx hm hl
  have hm' : t.buf m = s.buf m := w.other m hdm.symm
  have hl' : (t.buf d).len = (t.buf m).len := w.len_eq (by simp [hm', hl])
  obtain ⟨t', ht', w'⟩ := exec_and_wrote e w.hazard w.ready (hm' ▸ hm) hl'
  exact ⟨t, t', ht, ht', w'.err, by rw [w'.bytes, w.bytes, hm', and_mask_idempotent]⟩

/-- R91 law 2. -/
theorem exec_not_not (d e : Reg) (hz : s.hazard = false) (hx : (s.buf x).ready = true) :
    ∃ t t', exec (.not d x) s = .next t ∧ exec (.not e d) t = .next t' ∧ t'.err = 0 ∧
      (t'.buf e).bytes = (s.buf x).bytes := by
  obtain ⟨t, ht, w⟩ := exec_not_wrote d hz hx
  obtain ⟨t', ht', w'⟩ := exec_not_wrote e w.hazard w.ready
  exact ⟨t, t', ht, ht', w'.err, by rw [w'.bytes, w.bytes, invert_involutive]⟩

/-- R91 law 3: the two ORs read the same inverted mask, one with the masked value and one with `x` itself. -/
theorem runCommands_or_and_invert (hz : s.hazard = false) (hx : (s.buf x).ready = true) (hm : (s.buf m).ready = true)
    (hl : (s.buf x).len = (s.buf m).len) (hdm : d ≠ m) (hdn : d ≠ n) (hdx : d ≠ x) (hnx : n ≠ x) (hex : e ≠ x)
    (hen : e ≠ n) :
    ∃ t, runCommands [.and d x m, .not n m, .or e d n, .or g x n] s = .next t ∧ t.err = 0 ∧
      (e ≠ g → (t.buf e).bytes = (t.buf g).bytes) := by
  obtain ⟨s1, e1, w1⟩ := exec_and_wrote d hz hx hm hl
  have hm1 : s1.buf m = s.buf m := w1.other m hdm.symm
  obtain ⟨s2, e2, w2⟩ := exec_not_wrote n w1.hazard (hm1 ▸ hm)
  have hd2 : s2.buf d = s1.buf d := w2.other d hdn
  have hx2 : s2.buf x = s.buf x := (w2.other x hnx.symm).trans (w1.other x hdx.symm)
  have hlen2 : (s2.buf n).len = (s.buf m).len := w2.len_eq (by simp [hm1])
  have hld : (s2.buf d).len = (s2.buf n).len := by rw [hd2, hlen2]; exact w1.len_eq (by simp [hl])
  obtain ⟨s3, e3, w3⟩ := exec_or_wrote e w2.hazard (hd2 ▸ w1.ready) w2.ready hld
  have hx3 : s3.buf x = s.buf x := (w3.other x hex.symm).trans hx2
  have hn3 : s3.buf n = s2.buf n := w3.other n hen.symm
  have hlx : (s3.buf x).len = (s3.buf n).len := by rw [hx3, hn3, hlen2, hl]
  obtain ⟨t, e4, w4⟩ := exec_or_wrote g w3.hazard (hx3 ▸ hx) (hn3 ▸ w2.ready) hlx
  refine ⟨t, ?_, w4.err, fun heg => ?_⟩
  · rw [runCommands_cons e1, runCommands_cons e2, runCommands_cons e3, runCommands_cons e4, runCommands]
  · rw [w4.other e heg, w3.bytes, w4.bytes, hx3, hn3, hd2, w1.bytes, w2.bytes, hm1, and_mask_or_invert]

end laws

/-- Settles O46: each law of runs is the law of the values the commands leave. -/
theorem bitwiseLaws : Obligations.BitwiseLaws :=
  fun _ hz => ⟨fun _ e _ _ hx hm hl hdm => exec_and_and e hz hx hm hl hdm, fun d e _ hx => exec_not_not d e hz hx,
    fun _ _ _ _ _ _ hx hm hl hdm hdn hdx hnx hex hen =>
      runCommands_or_and_invert hz hx hm hl hdm hdn hdx hnx hex hen⟩

end Sys2Proof.Machine
end

section
/-! The cardinality unit: CARD (spec/42_cardinality.md R92 to R95), and the laws of the range calculation for a prefix mask
(R97). The last address is the first with every bit the mask clears set, so it is the first plus the inverted mask; and the inverted
mask of a prefix of `p` bits is `2^(8n − p) − 1`. -/

namespace Sys2Proof.Machine

section count

theorem inclusiveCount_eq_abs (a b : Nat) : (inclusiveCount a b : Int) = |(a : Int) - b| + 1 := by
  unfold inclusiveCount
  split
  · rw [abs_of_nonneg (by omega)]; omega
  · rw [abs_of_neg (by omega)]; omega

theorem inclusiveCount_add_right (a d : Nat) : inclusiveCount a (a + d) = d + 1 := by
  unfold inclusiveCount
  split <;> omega

theorem Buffer.uint_bytes_lt (x : Buffer) : uint x.bytes < 2 ^ 128 :=
  calc uint x.bytes < 256 ^ x.bytes.length := uint_lt _
    _ ≤ 256 ^ 16 := Nat.pow_le_pow_right (by decide) x.bytes_length_le
    _ = 2 ^ 128 := by norm_num

end count

section card

variable {s : State} {a b : Reg}

/-- CARD on written operands: CNT takes the count of the two register values, and STATUS the completion. -/
theorem exec_card_ready (hz : s.hazard = false) (ha : (s.buf a).ready = true) (hb : (s.buf b).ready = true) :
    exec (.card a b) s =
      .next ((s.setCnt (inclusiveCount (uint (s.buf a).bytes) (uint (s.buf b).bytes))).complete errOk) := by
  rw [exec, execCard, State.noteRead_ready 0 hz ha, State.noteRead_ready 1 hz hb, State.view_bytes 0 hz ha,
    State.view_bytes 1 hz hb]

theorem setCnt_inclusiveCount_buf (s : State) (x y : Buffer) :
    (s.setCnt (inclusiveCount (uint x.bytes) (uint y.bytes))).cnt.toNat = inclusiveCount (uint x.bytes) (uint y.bytes) :=
  setCnt_inclusiveCount (Buffer.uint_bytes_lt x) (Buffer.uint_bytes_lt y) s

end card

/-- Settles O21: CARD writes `inclusiveCount`, which is the absolute difference plus 1 and fits CNT. -/
theorem cardResult : Obligations.CardResult := by
  intro s a b hz ha hb
  refine ⟨_, exec_card_ready hz ha hb, ⟨rfl, rfl, rfl, rfl⟩, ⟨rfl, rfl, rfl, rfl, rfl, rfl, rfl, rfl⟩, rfl, rfl, rfl, rfl, ?_⟩
  rw [State.complete_cnt, setCnt_inclusiveCount_buf, inclusiveCount_eq_abs]

/-- Settles O22: whatever the operands read are, they have at most 16 bytes, so their count fits CNT. -/
theorem cardCountInRange : Obligations.CardCountInRange := by
  intro s a b
  have ha := view_uint_lt s 0 a
  have hb := view_uint_lt s 1 b
  have hcnt := setCnt_inclusiveCount ha hb ((s.noteRead 0 a).noteRead 1 b)
  obtain ⟨hlow, hhigh⟩ := inclusiveCount_range ha hb
  exact ⟨_, rfl, hcnt.symm ▸ hlow, hcnt.symm ▸ hhigh, hcnt⟩

/-- Settles O24: the count is symmetric. -/
theorem cardIsSymmetric : Obligations.CardIsSymmetric := by
  intro s a b hz ha hb
  refine ⟨_, _, exec_card_ready hz ha hb, exec_card_ready hz hb ha, ?_⟩
  rw [State.complete_cnt, State.complete_cnt, State.setCnt_cnt, State.setCnt_cnt, inclusiveCount_comm]

section mask

theorem mask_length (p n : Nat) : (mask p n).length = n := by simp [mask]

/-- Behind the first byte of a mask stands the mask of the rest of the prefix. -/
theorem maskByte_succ (p k : Nat) : maskByte p (k + 1) = maskByte (p - 8) k := by
  unfold maskByte
  have hfull : 8 * (k + 1) + 8 ≤ p ↔ 8 * k + 8 ≤ p - 8 := by omega
  have hzero : p ≤ 8 * (k + 1) ↔ p - 8 ≤ 8 * k := by omega
  have hpart : p - 8 * (k + 1) = p - 8 - 8 * k := by omega
  simp only [hfull, hzero, hpart]

theorem mask_succ (p n : Nat) : mask p (n + 1) = maskByte p 0 :: mask (p - 8) n := by
  simp only [mask, List.range_succ_eq_map, List.map_cons, List.map_map, Function.comp_def, maskByte_succ]

/-- The bits that the first byte of a mask clears. -/
theorem invert_maskByte_zero (p : Nat) : (maskByte p 0 ^^^ 0xFF).toNat + 1 = 2 ^ (8 - p) := by
  by_cases hp : p < 8
  · revert p; decide
  · rw [maskByte, if_pos (by omega), show 8 - p = 0 by omega]
    rfl

/-- The inverted mask of a prefix of `p` bits has its last `8n − p` bits set. -/
theorem uint_invert_mask (p n : Nat) (h : p ≤ 8 * n) : uint ((mask p n).map (· ^^^ 0xFF)) + 1 = 2 ^ (8 * n - p) := by
  induction n generalizing p with
  | zero => simp [mask]
  | succ n ih =>
    have hrest := ih (p - 8) (by omega)
    have hfirst := invert_maskByte_zero p
    rw [mask_succ, List.map_cons, uint_cons, List.length_map, mask_length, add_assoc, hrest]
    by_cases hp : p < 8
    · have hpow : 256 ^ n = 2 ^ (8 * n) := by rw [pow_mul]; norm_num
      rw [show 8 * n - (p - 8) = 8 * n by omega, hpow, ← Nat.succ_mul, Nat.succ_eq_add_one, hfirst, ← pow_add,
        show 8 - p + 8 * n = 8 * (n + 1) - p by omega]
    · have hkept : (maskByte p 0 ^^^ 0xFF).toNat = 0 := by
        simpa [show 8 - p = 0 by omega] using hfirst
      rw [hkept, zero_mul, zero_add, show 8 * n - (p - 8) = 8 * (n + 1) - p by omega]

theorem mask_eq_replicate {p n : Nat} {c : Byte} (h : ∀ k < n, maskByte p k = c) : mask p n = List.replicate n c := by
  refine List.eq_replicate_iff.2 ⟨mask_length p n, fun x hx => ?_⟩
  obtain ⟨k, hk, rfl⟩ := List.mem_map.1 hx
  exact h k (List.mem_range.1 hk)

theorem mask_full (n : Nat) : mask (8 * n) n = List.replicate n 0xFF :=
  mask_eq_replicate fun k hk => by rw [maskByte, if_pos (by omega)]

theorem mask_zero (n : Nat) : mask 0 n = List.replicate n 0x00 :=
  mask_eq_replicate fun k _ => by rw [maskByte, if_neg (by omega), if_pos (by omega)]

end mask

section firstLast

/-- A byte's bits under the mask and the bits the mask clears do not meet, so their union is their sum. -/
theorem or_invert_toNat (x m : Byte) : (x ||| (m ^^^ 0xFF)).toNat = (x &&& m).toNat + (m ^^^ 0xFF).toNat := by
  have hdisjoint : x &&& m &&& (m ^^^ 0xFF) = 0#8 := by
    rw [show (0xFF : Byte) = BitVec.allOnes 8 from rfl, BitVec.xor_allOnes, BitVec.and_assoc, BitVec.and_not_self]
    exact BitVec.and_zero
  rw [← and_or_invert, ← BitVec.add_eq_or_of_and_eq_zero _ _ hdisjoint, BitVec.toNat_add_of_and_eq_zero hdisjoint]

/-- R97 law 2 for any mask: the last address is the first plus the inverted mask. -/
theorem uint_last_eq_uint_first_add {xs ms : List Byte} (h : xs.length = ms.length) :
    uint (List.zipWith (fun x y => x ||| (y ^^^ 0xFF)) xs ms) =
      uint (List.zipWith (fun x y => x &&& y) xs ms) + uint (ms.map (· ^^^ 0xFF)) := by
  induction xs generalizing ms with
  | nil => rw [List.length_nil] at h; rw [List.length_eq_zero_iff.1 h.symm]; rfl
  | cons x xs ih =>
    cases ms with
    | nil => simp at h
    | cons m ms =>
      have hlen : xs.length = ms.length := by simpa using h
      simp only [List.zipWith_cons_cons, List.map_cons, uint_cons, List.length_zipWith, List.length_map, hlen, min_self,
        ih hlen, or_invert_toNat]
      ring

theorem zipWith_replicate_length (f : Byte → Byte → Byte) (xs : List Byte) (c : Byte) :
    List.zipWith f xs (List.replicate xs.length c) = xs.map (f · c) := by
  rw [← List.map_const', List.zipWith_map_right, List.zipWith_self]

variable {xs : List Byte} {n : Nat}

/-- R97 law 3: a mask of all ones leaves the address. -/
theorem first_last_mask_full (h : xs.length = n) :
    List.zipWith (fun x y => x &&& y) xs (mask (8 * n) n) = xs ∧
      List.zipWith (fun x y => x ||| (y ^^^ 0xFF)) xs (mask (8 * n) n) = xs := by
  subst h
  have hand (x : Byte) : x &&& 0xFF = x := BitVec.and_allOnes
  have hor (x : Byte) : x ||| (0xFF ^^^ 0xFF) = x := BitVec.or_zero
  simp only [mask_full, zipWith_replicate_length, hand, hor, List.map_id', and_self]

/-- R97 law 4: a mask of all zeros leaves nothing of the address. -/
theorem first_last_mask_zero (h : xs.length = n) :
    List.zipWith (fun x y => x &&& y) xs (mask 0 n) = List.replicate n 0x00 ∧
      List.zipWith (fun x y => x ||| (y ^^^ 0xFF)) xs (mask 0 n) = List.replicate n 0xFF := by
  subst h
  have hand (x : Byte) : x &&& 0x00 = 0x00 := BitVec.and_zero
  have hor (x : Byte) : x ||| (0x00 ^^^ 0xFF) = 0xFF := BitVec.or_allOnes
  simp only [mask_zero, zipWith_replicate_length, hand, hor, List.map_const', and_self]

end firstLast

section range

variable {s t : State} {r : RangeCmd}

theorem runCommands_append {is : List Instr} (h : runCommands is s = .next t) (js : List Instr) :
    runCommands (is ++ js) s = runCommands js t := by
  induction is generalizing s with
  | nil => cases h; rfl
  | cons i is ih =>
    obtain ⟨u, hu, -⟩ := exec_effect i s
    rw [runCommands_cons hu] at h
    rw [List.cons_append, runCommands_cons hu, ih h]

/-- `range` leaves both of its results written, without a hazard, so that CARD may read them. -/
theorem range_results_ready (hwf : r.wellFormed = true) (hz : s.hazard = false) (ha : (s.buf r.a).ready = true)
    (hm : (s.buf r.m).ready = true) (hl : (s.buf r.a).len = (s.buf r.m).len) (h : runCommands r.expand s = .next t) :
    t.hazard = false ∧ (t.buf r.f).ready = true ∧ (t.buf r.l).ready = true := by
  obtain ⟨hfa, hfm, hft, hfl, hta⟩ := (RangeCmd.wellFormed_iff r).1 hwf
  obtain ⟨s1, e1, w1⟩ := exec_and_wrote r.f hz ha hm hl
  have hm1 : s1.buf r.m = s.buf r.m := w1.other r.m hfm.symm
  obtain ⟨s2, e2, w2⟩ := exec_not_wrote r.t w1.hazard (hm1 ▸ hm)
  have ha2 : s2.buf r.a = s.buf r.a := (w2.other r.a hta.symm).trans (w1.other r.a hfa.symm)
  have hl2 : (s2.buf r.a).len = (s2.buf r.t).len := by rw [ha2, hl]; exact (w2.len_eq (by simp [hm1])).symm
  obtain ⟨s3, e3, w3⟩ := exec_or_wrote r.l w2.hazard (ha2 ▸ ha) w2.ready hl2
  rw [RangeCmd.expand, runCommands_cons e1, runCommands_cons e2, runCommands_cons e3, runCommands] at h
  cases h
  have hf3 : t.buf r.f = s1.buf r.f := (w3.other r.f hfl).trans (w2.other r.f hft)
  exact ⟨w3.hazard, hf3 ▸ w1.ready, w3.ready⟩

end range

/-- Settles O44: the last address is the first plus the inverted mask, which for a prefix of `p` bits is `2^(8n − p) − 1`, and
CARD adds 1. -/
theorem rangeCountsPrefix : Obligations.RangeCountsPrefix := by
  intro s r p n hwf hz ha hm hn hmask hp
  have hlen : (s.buf r.a).bytes.length = n := by rw [Buffer.bytes_length, hn]
  have hl : (s.buf r.a).len = (s.buf r.m).len := by
    rw [Fin.ext_iff, hn, ← Buffer.bytes_length, hmask, mask_length]
  obtain ⟨t, ht, -, -, hfirst, hlast, -⟩ := rangeGivesFirstAndLast s r hwf hz ha hm hl
  obtain ⟨hzt, hft, hlt⟩ := range_results_ready hwf hz ha hm hl ht
  rw [hmask] at hfirst hlast
  have hinv := uint_invert_mask p n hp
  have hdiff : uint (t.buf r.l).bytes = uint (t.buf r.f).bytes + (2 ^ (8 * n - p) - 1) := by
    rw [hlast, hfirst, uint_last_eq_uint_first_add (hlen.trans (mask_length p n).symm), ← hinv, Nat.add_sub_cancel]
  refine ⟨_, (runCommands_append ht _).trans (runCommands_cons (exec_card_ready hzt hft hlt) []), rfl, ?_, hdiff, ?_, ?_⟩
  · rw [State.complete_cnt, setCnt_inclusiveCount_buf, hdiff, inclusiveCount_add_right,
      Nat.sub_add_cancel Nat.one_le_two_pow]
  · rintro rfl
    exact (first_last_mask_full hlen).imp hfirst.trans hlast.trans
  · rintro rfl
    exact (first_last_mask_zero hlen).imp hfirst.trans hlast.trans

end Sys2Proof.Machine
end

section
/-! The strings of the formatters, character by character and group by group (spec/43_encoder.md R100 to R105). -/

namespace Sys2Proof.Machine

section binary

/-- Parts of exactly `n` characters, joined. -/
theorem join_length_of_const (sep : Byte) {n : Nat} {l : List (List Byte)} (h : ∀ x ∈ l, x.length = n) :
    (join sep l).length = l.length * (n + 1) - 1 := by
  induction l with
  | nil => simp [join]
  | cons x xs ih =>
    have hx : x.length = n := h x (by simp)
    cases xs with
    | nil => simp [join, hx]
    | cons y ys =>
      have hrest := ih fun z hz => h z (List.mem_cons_of_mem x hz)
      simp only [List.length_cons, Nat.succ_mul] at hrest
      simp only [join, List.length_append, List.length_cons, hx, hrest, Nat.succ_mul]
      omega

theorem textBin_length (d : List Byte) : (textBin d).length = 9 * d.length - 1 := by
  rw [textBin, join_length_of_const chSpace (n := 8) (by simp [bin8_length]), List.length_map, mul_comm]

theorem bin8_getElem? (b : Byte) {j : Nat} (h : j < 8) :
    (bin8 b)[j]? = some (if b.getLsbD (7 - j) then 0x31 else 0x30) := by
  interval_cases j <;> rfl

theorem textBin_cons_cons (b c : Byte) (d : List Byte) :
    textBin (b :: c :: d) = bin8 b ++ chSpace :: textBin (c :: d) := rfl

/-- A string that starts with the digits of byte `b`, up to there. -/
theorem bin8_append_getElem? (b : Byte) (d str : List Byte) {p : Nat} (h : p < 8) : (bin8 b ++ str)[p]? =
    some (if p % 9 = 8 then 0x20 else if ((b :: d).getD (p / 9) 0).getLsbD (7 - p % 9) then 0x31 else 0x30) := by
  have hdiv : p / 9 = 0 := by omega
  have hmod : p % 9 = p := by omega
  rw [hdiv, hmod, if_neg (by omega), List.getD_cons_zero, List.getElem?_append_left (by rw [bin8_length]; exact h),
    bin8_getElem? b h]

/-- Character `p` of FBIN's string: byte `p / 9` gives the nine characters from `9 * (p / 9)` on, eight digits and a space. -/
theorem textBin_getElem? {d : List Byte} {p : Nat} (h : p < 9 * d.length - 1) : (textBin d)[p]? =
    some (if p % 9 = 8 then 0x20 else if (d.getD (p / 9) 0).getLsbD (7 - p % 9) then 0x31 else 0x30) := by
  induction d generalizing p with
  | nil => simp at h
  | cons b d ih =>
    cases d with
    | nil =>
      rw [show textBin [b] = bin8 b ++ [] from (List.append_nil _).symm]
      exact bin8_append_getElem? b [] [] (by simpa using h)
    | cons c d =>
      rw [textBin_cons_cons]
      obtain hp | rfl | ⟨q, rfl⟩ : p < 8 ∨ p = 8 ∨ ∃ q, p = q + 9 := by
        by_cases hp : p < 9
        · omega
        · exact .inr (.inr ⟨p - 9, by omega⟩)
      · exact bin8_append_getElem? b (c :: d) _ hp
      · rfl
      · have hq : q < 9 * (c :: d).length - 1 := by simp only [List.length_cons] at h ⊢; omega
        rw [List.getElem?_append_right (by rw [bin8_length]; omega), bin8_length, show q + 9 - 8 = q + 1 by omega,
          List.getElem?_cons_succ, ih hq, Nat.add_mod_right, Nat.add_div_right q (by decide), List.getD_cons_succ]

/-- R100 for every position, those behind the string too. -/
theorem textBin_getD (d : List Byte) (p : Nat) : (textBin d).getD p 0 =
    if 9 * d.length - 1 ≤ p then 0x00
    else if p % 9 = 8 then 0x20 else if (d.getD (p / 9) 0).getLsbD (7 - p % 9) then 0x31 else 0x30 := by
  split
  · rename_i h
    exact List.getD_eq_default _ _ (by rw [textBin_length]; exact h)
  · rename_i h
    rw [List.getD_eq_getElem?_getD, textBin_getElem? (Nat.lt_of_not_le h), Option.getD_some]

end binary

section groupText

variable {d : List Byte}

theorem textDec16_odd (h : d.length % 2 = 1) : textDec16 d = [] := if_pos h

theorem textDec16_even (h : d.length % 2 ≠ 1) :
    textDec16 d = join 0x2E ((List.range (d.length / 2)).map fun g => dec (groupAt d g)) := by
  rw [textDec16, if_neg h, groups_eq, List.map_map]
  rfl

theorem groups_of_length (h : d.length = 16) : groups d = (List.range 8).map (groupAt d) := by
  rw [groups_eq, h]

theorem textHex_of_length_ne (h : d.length ≠ 16) : textHex d = [] := if_pos h

theorem textHex_of_length (h : d.length = 16) :
    textHex d = join 0x3A ((List.range 8).map fun g => hex4 (groupAt d g)) := by
  rw [textHex, if_neg (not_not.2 h), groups_of_length h, List.map_map]
  rfl

theorem textHex_length (h : d.length = 16) : (textHex d).length = 39 := by
  rw [textHex_of_length h, join_length_of_const 0x3A (n := 4) (by simp [hex4_length])]
  rfl

theorem textShex_of_length_ne (h : d.length ≠ 16) : textShex d = [] := if_pos h

theorem isV4Mapped_iff (d : List Byte) : isV4Mapped d = true ↔ d.take 12 = List.replicate 10 0x00 ++ [0xFF, 0xFF] := by
  rw [isV4Mapped, beq_iff_eq]
  rfl

/-- The two bytes 0xFF and the ten 0x00 before them, said byte by byte. -/
theorem isV4Mapped_of_getD (hl : d.length = 16) (hzero : ∀ k, k < 10 → d.getD k 0 = 0x00) (h10 : d.getD 10 0 = 0xFF)
    (h11 : d.getD 11 0 = 0xFF) : isV4Mapped d = true := by
  have htake : d.take 12 = (List.range 12).map (d.getD · 0) := by
    refine List.ext_getElem (by simp [hl]) fun k hk _ => ?_
    have hk16 : k < d.length := (List.length_take ▸ hk).trans_le (min_le_right _ _)
    rw [List.getElem_take, List.getElem_map, List.getElem_range, List.getD_eq_getElem _ _ hk16]
  have hhead : (List.range 10).map (d.getD · 0) = List.replicate 10 0x00 :=
    List.eq_replicate_iff.2 ⟨by simp, by simpa using hzero⟩
  rw [isV4Mapped_iff, htake, show 12 = 10 + 1 + 1 from rfl, List.range_succ, List.range_succ, List.map_append,
    List.map_append, hhead, List.map_singleton, List.map_singleton, h10, h11]
  rfl

theorem textShex_mapped (hl : d.length = 16) (h : isV4Mapped d = true) : textShex d = textDec8 (d.drop 12) := by
  rw [textShex, if_neg (not_not.2 hl), h]
  rfl

theorem textShex_groups (hl : d.length = 16) (h : isV4Mapped d = false) : textShex d = textGroups (groups d) := by
  rw [textShex, if_neg (not_not.2 hl), h, Bool.and_false]
  rfl

end groupText

section zeroRuns

variable {d : List Byte} {g : List Nat} {i n bs bl : Nat}

theorem le_zeroRun_iff (l : List Nat) (n : Nat) : n ≤ zeroRun l ↔ ∀ k < n, l[k]? = some 0 := by
  obtain ⟨hzero, hstop⟩ := zeroRun_spec l
  refine ⟨fun h k hk => hzero k (by omega), fun h => ?_⟩
  by_contra hn
  exact hstop (h _ (by omega))

/-- The run search finds the first longest run of at least one zero, and only that. -/
theorem longestRun_eq (hbl : 0 < bl) (hbs : bl ≤ zeroRun (g.drop bs)) (hlong : ∀ i, zeroRun (g.drop i) ≤ bl)
    (hfirst : ∀ i < bs, zeroRun (g.drop i) < bl) : longestRun g 0 (0, 0) = (bs, bl) := by
  obtain ⟨hmax, hearlier, hrun⟩ := longestRun_first g
  generalize longestRun g 0 (0, 0) = run at *
  have hge : bl ≤ run.2 := hbs.trans (hmax bs)
  have hlen : run.2 = zeroRun (g.drop run.1) := hrun.resolve_right (by omega)
  have hbl' : run.2 = bl := le_antisymm (hlen ▸ hlong run.1) hge
  have hbs' : run.1 = bs := by
    rcases Nat.lt_trichotomy run.1 bs with hlt | heq | hgt
    · have := hfirst run.1 hlt
      omega
    · exact heq
    · have := hearlier bs hgt
      omega
  exact Prod.ext hbs' hbl'

/-- A run of zero groups of a 16-byte value, as the run search sees it. -/
theorem zeroGroups_iff (hl : d.length = 16) (hi : i + n ≤ 8) :
    ZeroGroups d i n ↔ n ≤ zeroRun ((groups d).drop i) := by
  rw [le_zeroRun_iff, groups_of_length hl]
  constructor
  · intro h k hk
    have hk8 : i + k < 8 := by omega
    simp [List.getElem?_drop, hk8, h (i + k) (by omega) (by omega)]
  · intro h k hik hk
    have hk8 : k < 8 := by omega
    have hget := h (k - i) (by omega)
    rw [List.getElem?_drop, Nat.add_sub_cancel' hik] at hget
    simpa [hk8] using hget

/-- The run of zeros from position `i` on lies within the eight groups, and is one of zero groups. -/
theorem zeroGroups_zeroRun_drop (hl : d.length = 16) (hpos : 0 < zeroRun ((groups d).drop i)) :
    i + zeroRun ((groups d).drop i) ≤ 8 ∧ ZeroGroups d i (zeroRun ((groups d).drop i)) := by
  have hle := zeroRun_le_length ((groups d).drop i)
  rw [List.length_drop, groups_length, hl] at hle
  have hi : i + zeroRun ((groups d).drop i) ≤ 8 := by omega
  exact ⟨hi, (zeroGroups_iff hl hi).2 le_rfl⟩

theorem textGroups_of_run_lt (h : (longestRun g 0 (0, 0)).2 < 2) : textGroups g = join 0x3A (g.map hexmin) := if_pos h

theorem textGroups_of_run (hbl : 2 ≤ bl) (h : longestRun g 0 (0, 0) = (bs, bl)) : textGroups g =
    join 0x3A ((g.take bs).map hexmin) ++ [0x3A, 0x3A] ++ join 0x3A ((g.drop (bs + bl)).map hexmin) := by
  rw [textGroups, h]
  exact if_neg (Nat.not_lt.2 hbl)

/-- R104 for a value with no two adjacent zero groups. -/
theorem textGroups_full (hl : d.length = 16) (h : ∀ i, i < 7 → ¬ ZeroGroups d i 2) :
    textGroups (groups d) = join 0x3A ((List.range 8).map fun k => hexmin (groupAt d k)) := by
  have hshort : (longestRun (groups d) 0 (0, 0)).2 < 2 := by
    by_contra hn
    obtain ⟨-, -, hrun⟩ := longestRun_first (groups d)
    generalize longestRun (groups d) 0 (0, 0) = run at *
    have hlen : run.2 = zeroRun ((groups d).drop run.1) := hrun.resolve_right (by omega)
    obtain ⟨hend, -⟩ := zeroGroups_zeroRun_drop (i := run.1) hl (by omega)
    exact h run.1 (by omega) ((zeroGroups_iff hl (by omega)).2 (by omega))
  rw [textGroups_of_run_lt hshort, groups_of_length hl, List.map_map]
  rfl

/-- R104 for a value whose first longest run of zero groups is the `bl` groups from group `bs` on. -/
theorem textGroups_collapsed (hl : d.length = 16) (hbl : 2 ≤ bl) (hend : bs + bl ≤ 8) (hrun : ZeroGroups d bs bl)
    (hlong : ∀ i n, i + n ≤ 8 → ZeroGroups d i n → n ≤ bl) (hfirst : ∀ i, i < bs → ¬ ZeroGroups d i bl) :
    textGroups (groups d) = join 0x3A ((List.range bs).map fun k => hexmin (groupAt d k)) ++ [0x3A, 0x3A] ++
      join 0x3A ((List.range (8 - (bs + bl))).map fun k => hexmin (groupAt d (bs + bl + k))) := by
  have hfound : longestRun (groups d) 0 (0, 0) = (bs, bl) := by
    refine longestRun_eq (by omega) ((zeroGroups_iff hl hend).1 hrun) (fun i => ?_) fun i hi => ?_
    · by_contra hn
      obtain ⟨hin, hzero⟩ := zeroGroups_zeroRun_drop (i := i) hl (by omega)
      exact hn (hlong i _ hin hzero)
    · exact Nat.lt_of_not_le fun hle => hfirst i hi ((zeroGroups_iff hl (by omega)).2 hle)
  have htake : (List.range 8).take bs = List.range bs := by rw [List.take_range, min_eq_left (by omega)]
  have hdrop : (List.range 8).drop (bs + bl) = (List.range (8 - (bs + bl))).map (bs + bl + ·) := by
    rw [List.range_eq_range', List.drop_range', List.range'_eq_map_range]
    simp
  rw [textGroups_of_run hbl hfound, groups_of_length hl, ← List.map_take, ← List.map_drop, htake, hdrop, List.map_map,
    List.map_map, List.map_map]
  rfl

end zeroRuns

end Sys2Proof.Machine
end

section
/-! The address encoder: a formatter writes its string to OUT and completes, and changes nothing else
(spec/43_encoder.md R99). -/

namespace Sys2Proof

open Sys2Proof.Machine

/-- The string a formatter writes in `s`, after a HostHazard too. That a length the formatter does not render gives "" is part of
`textDec16`, `textHex` and `textShex`. -/
def Instr.text (s : Machine.State) : Instr → List Byte
  | .fbin a => textBin (s.view 0 a).bytes
  | .fdec8 a => textDec8 (s.view 0 a).bytes
  | .fdec16 a => textDec16 (s.view 0 a).bytes
  | .fhex a => textHex (s.view 0 a).bytes
  | .fshex a => textShex (s.view 0 a).bytes
  | .fcnt => textCnt s.cntView
  | .nop | .and _ _ _ | .or _ _ _ | .not _ _ | .card _ _ => []

theorem Instr.text_length_le (s : Machine.State) (i : Instr) : (i.text s).length ≤ i.maxOut := by
  cases i with
  | fbin a => exact textBin_length_le (View.bytes_length_le _)
  | fdec8 a =>
    have hbytes := View.bytes_length_le (s.view 0 a)
    exact (textDec8_length_le _).trans (by simp only [Instr.maxOut]; omega)
  | fdec16 a => exact textDec16_length_le (View.bytes_length_le _)
  | fhex a => exact textHex_length_le _
  | fshex a => exact textShex_length_le _
  | fcnt => exact textCnt_length_le _
  | nop | and | or | not | card => exact Nat.zero_le _

/-- R107: OUTMAX is enough for every formatter. -/
theorem Instr.maxOut_le_outMax (i : Instr) : i.maxOut ≤ Config.outMax := by
  unfold Instr.maxOut
  split <;> decide

end Sys2Proof

namespace Sys2Proof.Machine

section formatters

variable {s : State} {i : Instr} {a : Reg}

/-- A formatter that stops at a length it does not render writes its string all the same, for that is "" then; it only does not
read (spec/43_encoder.md R102 to R104). -/
theorem State.formatIf_eq (s : State) {renders : Nat → Bool} {text : List Byte → List Byte} (a : Reg)
    (htext : ∀ d, renders d.length = false → text d = []) : s.formatIf renders text a =
      ((s.noted (renders (s.view 0 a).len.val && s.readsUnwritten 0 a)).emit (text (s.view 0 a).bytes)).complete errOk := by
  rcases s.formatIf_cases renders text a with ⟨hl, e⟩ | ⟨hl, e⟩
  · rw [e, hl, Bool.true_and]
    rfl
  · rw [e, hl, Bool.false_and, State.noted_false, htext _ (by rw [View.bytes_length, hl])]

/-- What a formatter does, in every state. -/
theorem exec_formatter (hi : i.isFormatter = true) (s : State) :
    exec i s = .next (((s.noted (i.readsUnwritten s)).emit (i.text s)).complete errOk) := by
  cases i with
  | fbin a | fdec8 a => rfl
  | fdec16 a => exact congrArg _ (s.formatIf_eq a fun d h => textDec16_odd (by simpa using h))
  | fhex a => exact congrArg _ (s.formatIf_eq a fun d h => textHex_of_length_ne (by simpa using h))
  | fshex a => exact congrArg _ (s.formatIf_eq a fun d h => textShex_of_length_ne (by simpa using h))
  | fcnt =>
    rw [show Instr.readsUnwritten s .fcnt = false from rfl, State.noted_false]
    rfl
  | nop | and | or | not | card => cases hi

/-- The string of a formatter fits OUT, so OUT holds all of it (spec/43_encoder.md R107). -/
theorem State.emitted_text (s u : State) (i : Instr) : ((u.emit (i.text s)).complete errOk).Emitted (i.text s) :=
  State.emitted_of ((Instr.text_length_le s i).trans i.maxOut_le_outMax) errOk

theorem exec_formatter_emitted (hi : i.isFormatter = true) (s : State) :
    ∃ t, exec i s = .next t ∧ t.Emitted (i.text s) :=
  ⟨_, exec_formatter hi s, s.emitted_text _ i⟩

/-- R99 for a formatter without a hazard whose data operands were written: whatever follows from the string it leaves in OUT, and
the frame. -/
theorem exec_formatter_ready {P : State → Prop} (hi : i.isFormatter = true) (hz : s.hazard = false)
    (hr : ∀ r ∈ i.dataOperands s, (s.buf r).ready = true) (hP : ∀ t : State, t.Emitted (i.text s) → P t) :
    ∃ t, exec i s = .next t ∧ s.Completed t 0 ∧ s.SameControl t ∧ t.faults = s.faults ∧ t.v = s.v ∧ t.cnt = s.cnt ∧ P t := by
  have hreads : i.readsUnwritten s = false := by
    rw [Instr.readsUnwritten_eq hz, Bool.not_eq_false', List.all_eq_true]
    exact hr
  have hexec : exec i s = .next ((s.emit (i.text s)).complete errOk) := by
    rw [exec_formatter hi, hreads, State.noted_false]
  exact ⟨_, hexec, ⟨rfl, rfl, rfl, rfl⟩, ⟨rfl, rfl, rfl, rfl, rfl, rfl, rfl, rfl⟩, rfl, rfl, rfl, hP _ (s.emitted_text s i)⟩

theorem exec_formatter_ready_emitted {str : List Byte} (hi : i.isFormatter = true) (hz : s.hazard = false)
    (hr : ∀ r ∈ i.dataOperands s, (s.buf r).ready = true) (htext : i.text s = str) :
    ∃ t, exec i s = .next t ∧ s.Completed t 0 ∧ s.SameControl t ∧ t.faults = s.faults ∧ t.v = s.v ∧ t.cnt = s.cnt ∧
      t.Emitted str :=
  exec_formatter_ready hi hz hr fun _ ht => htext ▸ ht

/-- The data operands of a formatter that renders only some lengths were written if they were at such a length. -/
theorem State.ready_of_mem_ite {p : Prop} [Decidable p] (hr : p → (s.buf a).ready = true) :
    ∀ r ∈ (if p then [a] else []), (s.buf r).ready = true := by
  intro r h
  split at h
  · rename_i hp
    exact List.mem_singleton.1 h ▸ hr hp
  · cases h

theorem State.view_bytes_length (hz : s.hazard = false) : (s.view 0 a).bytes.length = (s.buf a).len.val := by
  rw [View.bytes_length, State.view_len 0 hz]

end formatters

/-- Settles O25: OUT holds `textBin` of the value, whose characters are those of R100. -/
theorem fbinWritesBinaryOctets : Obligations.FbinWritesBinaryOctets := by
  intro s a hz hr
  refine exec_formatter_ready (i := .fbin a) rfl hz (List.forall_mem_singleton.2 hr) fun t ht => ?_
  have htext : Instr.text s (.fbin a) = textBin (s.buf a).bytes := congrArg textBin (State.view_bytes 0 hz hr)
  rw [htext] at ht
  rw [← Buffer.bytes_length]
  exact ⟨ht.outlen.trans (textBin_length _), fun p => (ht.chars p).trans (textBin_getD _ p)⟩

/-- Settles O26: the string is `textDec8` of the value. -/
theorem fdec8WritesDottedDecimal : Obligations.Fdec8WritesDottedDecimal := fun _ a hz hr =>
  exec_formatter_ready_emitted (i := .fdec8 a) rfl hz (List.forall_mem_singleton.2 hr)
    (congrArg textDec8 (State.view_bytes 0 hz hr))

/-- Settles O27: an odd length gives "" whatever was read, and at an even one the value was written. -/
theorem fdec16WritesGroups : Obligations.Fdec16WritesGroups := by
  intro s a hz hr
  refine exec_formatter_ready_emitted (i := .fdec16 a) rfl hz (State.ready_of_mem_ite hr) ?_
  change textDec16 (s.view 0 a).bytes = _
  split
  · rename_i hodd
    exact textDec16_odd (by rw [State.view_bytes_length hz, hodd])
  · rename_i heven
    rw [State.view_bytes 0 hz (hr (by omega)), textDec16_even (by rw [Buffer.bytes_length]; exact heven),
      Buffer.bytes_length]

/-- Settles O28: eight groups of four digits and seven colons are 39 characters; another length gives "". -/
theorem fhexWritesFullForm : Obligations.FhexWritesFullForm := by
  intro s a hz hr
  refine exec_formatter_ready (i := .fhex a) rfl hz (State.ready_of_mem_ite hr) fun t ht => ?_
  change t.Emitted (textHex (s.view 0 a).bytes) at ht
  by_cases hl : (s.buf a).len.val = 16
  · have hbytes : (s.buf a).bytes.length = 16 := by rw [Buffer.bytes_length, hl]
    rw [State.view_bytes 0 hz (hr hl)] at ht
    rw [if_pos hl, if_pos hl, ← textHex_of_length hbytes]
    exact ⟨ht.outlen.trans (textHex_length hbytes), ht⟩
  · rw [textHex_of_length_ne (by rw [State.view_bytes_length hz]; exact hl)] at ht
    rw [if_neg hl, if_neg hl]
    exact ⟨ht.outlen, ht⟩

/-- Settles O29: the two cases of `textShex` that do not look for a run. -/
theorem fshexOtherForms : Obligations.FshexOtherForms := by
  intro s a hz
  refine ⟨fun hl => ?_, fun hl hr hzero h10 h11 => ?_⟩
  · exact exec_formatter_ready_emitted (i := .fshex a) rfl hz (State.ready_of_mem_ite fun h => absurd h hl)
      (textShex_of_length_ne (by rw [State.view_bytes_length hz]; exact hl))
  · have hbytes : (s.buf a).bytes.length = 16 := by rw [Buffer.bytes_length, hl]
    refine exec_formatter_ready_emitted (i := .fshex a) rfl hz (State.ready_of_mem_ite fun _ => hr) ?_
    exact (congrArg textShex (State.view_bytes 0 hz hr)).trans
      (textShex_mapped hbytes (isV4Mapped_of_getD hbytes hzero h10 h11))

/-- Settles O30: a value that is not IPv4-mapped is written by groups, with the first longest run of zeros collapsed. -/
theorem fshexCollapsesFirstLongestRun : Obligations.FshexCollapsesFirstLongestRun := by
  intro s a hz hl hr hmapped
  have hbytes : (s.buf a).bytes.length = 16 := by rw [Buffer.bytes_length, hl]
  have hv4 : isV4Mapped (s.buf a).bytes = false := Bool.eq_false_iff.2 fun h => hmapped ((isV4Mapped_iff _).1 h)
  have htext : Instr.text s (.fshex a) = textGroups (groups (s.buf a).bytes) :=
    (congrArg textShex (State.view_bytes 0 hz hr)).trans (textShex_groups hbytes hv4)
  refine exec_formatter_ready (i := .fshex a) rfl hz (State.ready_of_mem_ite fun _ => hr) fun t ht => ?_
  rw [htext] at ht
  refine ⟨fun hnone => ?_, fun bs bl hbl hend hrun hlong hfirst => ?_⟩
  · exact textGroups_full hbytes hnone ▸ ht
  · exact textGroups_collapsed hbytes hbl hend hrun hlong hfirst ▸ ht

/-- Settles O31: without a hazard FCNT reads CNT itself. -/
theorem fcntWritesDecimalCount : Obligations.FcntWritesDecimalCount := by
  intro s hz
  refine exec_formatter_ready_emitted (i := .fcnt) rfl hz (List.forall_mem_nil _) ?_
  change textCnt s.cntView = _
  rw [State.cntView, hz]
  rfl

section bounds

/-- Sixteen bytes 0xFF in every register, and the widest count: the values with the longest strings. -/
def State.longest : State :=
  { State.reset with
    v := Vector.replicate 8 ⟨16, Vector.replicate 16 0xFF, Vector.replicate 16 true⟩
    cnt := BitVec.ofNat 129 (2 ^ 128) }

theorem State.longest_view_bytes : (State.longest.view 0 0).bytes = List.replicate 16 0xFF := by
  rw [State.view_bytes 0 (by decide) (by decide)]
  rfl

theorem text_length_longest : ∀ i ∈ [Instr.fbin 0, .fdec8 0, .fdec16 0, .fhex 0, .fshex 0, .fcnt],
    i.isFormatter = true ∧ (i.text State.longest).length = i.maxOut := by
  simp only [List.forall_mem_cons, Instr.text, State.longest_view_bytes]
  exact ⟨⟨rfl, textBin_length _⟩, ⟨rfl, by decide⟩, ⟨rfl, by decide⟩, ⟨rfl, textHex_length rfl⟩, ⟨rfl, by decide⟩,
    ⟨rfl, by decide⟩, List.forall_mem_nil _⟩

end bounds

/-- Settles O33: the string is whole and within the bound in every state, and reaches it in `State.longest`. -/
theorem outputLengthsAreBounded : Obligations.OutputLengthsAreBounded := by
  refine ⟨fun i s hi => ?_, fun i hmem => ?_⟩
  · obtain ⟨t, ht, hemit⟩ := exec_formatter_emitted hi s
    exact ⟨t, ht, hemit.outlen ▸ Instr.text_length_le s i, i.maxOut_le_outMax⟩
  · obtain ⟨hi, hlen⟩ := text_length_longest i hmem
    obtain ⟨t, ht, hemit⟩ := exec_formatter_emitted hi State.longest
    exact ⟨State.longest, t, ht, hemit.outlen.trans hlen⟩

/-- Two formatters with one string leave the same OUT and OUTLEN. -/
theorem exec_formatter_congr {s s' : State} {i i' : Instr} (hi : i.isFormatter = true) (hi' : i'.isFormatter = true)
    (htext : i.text s = i'.text s') :
    ∃ t t', exec i s = .next t ∧ exec i' s' = .next t' ∧ t.out = t'.out ∧ t.outlen = t'.outlen := by
  refine ⟨_, _, exec_formatter hi s, exec_formatter hi' s', ?_⟩
  rw [htext]
  exact ⟨rfl, rfl⟩

/-- Settles O34: the string of a formatter is a function of the value it reads. -/
theorem formattersDependOnlyOnOperand : Obligations.FormattersDependOnlyOnOperand := by
  refine ⟨fun s s' a a' hz hz' hr hr' hbytes k hk => ?_, fun s s' hz hz' hcnt => ?_⟩
  · have hview : (s.view 0 a).bytes = (s'.view 0 a').bytes := by
      rw [State.view_bytes 0 hz hr, State.view_bytes 0 hz' hr', hbytes]
    simp only [List.mem_cons, List.not_mem_nil, or_false] at hk
    obtain rfl | rfl | rfl | rfl | rfl := hk
    · exact exec_formatter_congr rfl rfl (congrArg textBin hview)
    · exact exec_formatter_congr rfl rfl (congrArg textDec8 hview)
    · exact exec_formatter_congr rfl rfl (congrArg textDec16 hview)
    · exact exec_formatter_congr rfl rfl (congrArg textHex hview)
    · exact exec_formatter_congr rfl rfl (congrArg textShex hview)
  · refine exec_formatter_congr rfl rfl (congrArg textCnt ?_)
    rw [State.cntView, State.cntView, hz, hz']
    exact hcnt

theorem State.ExecEffect.v_eq {s t : State} {i : Instr} (h : s.ExecEffect i t) (hi : i.dest? = none) : t.v = s.v := by
  cases h with
  | buf d n x hd => cases hi.symm.trans hd
  | status | cnt | out => rfl

/-- Settles O36: a command without a destination has no length check to fail, and writes no buffer register. -/
theorem nonBitwiseFrame : Obligations.NonBitwiseFrame := by
  intro s i hi
  obtain ⟨t, ht, he⟩ := exec_effect i s
  have hok : s.Completed t errOk := he.completed.resolve_right fun ⟨hdest, _⟩ => hdest hi
  exact ⟨t, ht, hok, he.sameControl, he.v_eq hi, he.cnt_eq, he.out_eq⟩

end Sys2Proof.Machine
end

section
/-! The characters of the formatters' strings are those of spec/00_scope.md R11. -/

namespace Sys2Proof.Machine

/-- Every character of `str` is one of spec/00_scope.md R11. -/
def IsText (str : List Byte) : Prop := ∀ c ∈ str, isOutputChar c = true

section isText

variable {str : List Byte}

theorem isOutputChar_of_digit {c : Byte}
    (h : (0x30 ≤ c.toNat ∧ c.toNat ≤ 0x39) ∨ (0x61 ≤ c.toNat ∧ c.toNat ≤ 0x66)) : isOutputChar c = true := by
  rcases h with ⟨hlow, hhigh⟩ | ⟨hlow, hhigh⟩ <;> simp [isOutputChar, hlow, hhigh]

theorem IsText.nil : IsText [] := List.forall_mem_nil _

theorem IsText.append {str' : List Byte} (h : IsText str) (h' : IsText str') : IsText (str ++ str') :=
  List.forall_mem_append.2 ⟨h, h'⟩

theorem IsText.cons {c : Byte} (hc : isOutputChar c = true) (h : IsText str) : IsText (c :: str) :=
  List.forall_mem_cons.2 ⟨hc, h⟩

theorem IsText.join {sep : Byte} (hsep : isOutputChar sep = true) {parts : List (List Byte)}
    (h : ∀ x ∈ parts, IsText x) : IsText (join sep parts) := by
  induction parts with
  | nil => exact .nil
  | cons x xs ih =>
    obtain ⟨hx, hxs⟩ := List.forall_mem_cons.1 h
    cases xs with
    | nil => exact hx
    | cons y ys => exact hx.append (.cons hsep (ih hxs))

/-- Parts that a formatter joins are the images of bytes or groups. -/
theorem IsText.join_map {α : Type} {sep : Byte} (hsep : isOutputChar sep = true) {f : α → List Byte}
    (h : ∀ x, IsText (f x)) (l : List α) : IsText (Machine.join sep (l.map f)) :=
  .join hsep (List.forall_mem_map.2 fun x _ => h x)

theorem isText_numeral {base : Nat} (hb : 1 < base) (hb' : base ≤ 16) (v : Nat) : IsText (numeral base v) :=
  fun c hc => isOutputChar_of_digit ((numeral_isNumeral hb hb' v).digits c hc).2

theorem isText_dec (v : Nat) : IsText (dec v) := isText_numeral (by decide) (by decide) v

theorem isText_hexmin (v : Nat) : IsText (hexmin v) := isText_numeral (by decide) (by decide) v

theorem isText_hex4 (v : Nat) : IsText (hex4 v) := fun c hc => isOutputChar_of_digit (hex4_chars v c hc).2

theorem isText_bin8 (b : Byte) : IsText (bin8 b) := by
  intro c hc
  rcases bin8_chars b c hc with rfl | rfl <;> rfl

theorem isText_textDec8 (d : List Byte) : IsText (textDec8 d) :=
  .join_map (sep := chDot) (f := fun b : Byte => dec b.toNat) rfl (fun b => isText_dec b.toNat) d

theorem isText_textDec16 (d : List Byte) : IsText (textDec16 d) := by
  by_cases hodd : d.length % 2 = 1
  · rw [textDec16_odd hodd]; exact .nil
  · rw [textDec16_even hodd]; exact .join_map rfl (fun g => isText_dec (groupAt d g)) _

theorem isText_textHex (d : List Byte) : IsText (textHex d) := by
  by_cases hl : d.length = 16
  · rw [textHex_of_length hl]; exact .join_map rfl (fun g => isText_hex4 (groupAt d g)) _
  · rw [textHex_of_length_ne hl]; exact .nil

theorem isText_textGroups (g : List Nat) : IsText (textGroups g) := by
  have hparts (l : List Nat) : IsText (join 0x3A (l.map hexmin)) := .join_map rfl isText_hexmin l
  by_cases hrun : (longestRun g 0 (0, 0)).2 < 2
  · rw [textGroups_of_run_lt hrun]; exact hparts g
  · rw [textGroups_of_run (not_lt.1 hrun) rfl]
    exact ((hparts _).append (.cons rfl (.cons rfl .nil))).append (hparts _)

theorem isText_textShex (d : List Byte) : IsText (textShex d) := by
  by_cases hl : d.length = 16
  · cases hv4 : isV4Mapped d
    · rw [textShex_groups hl hv4]; exact isText_textGroups _
    · rw [textShex_mapped hl hv4]; exact isText_textDec8 _
  · rw [textShex_of_length_ne hl]; exact .nil

end isText

end Sys2Proof.Machine

namespace Sys2Proof

open Sys2Proof.Machine

theorem Instr.isText_text (s : Machine.State) (i : Instr) : IsText (i.text s) := by
  cases i with
  | fbin a => exact .join_map rfl isText_bin8 _
  | fdec8 a => exact isText_textDec8 _
  | fdec16 a => exact isText_textDec16 _
  | fhex a => exact isText_textHex _
  | fshex a => exact isText_textShex _
  | fcnt => exact isText_dec _
  | nop | and | or | not | card => exact .nil

end Sys2Proof
end

section
/-! Completions, errors and the interrupt line (spec/60_exceptions.md): the machine never stops, every step keeps the invariant,
and DONE, ERRS and OVR fall only by the host's hand. -/

namespace Sys2Proof.Machine

/-- Settles O50: each bit of `irq` is the bit of the word of that number. -/
theorem irqFollowsEnabledBits : Obligations.IrqFollowsEnabledBits := by
  intro s
  have hdone : s.statusWord.getLsbD 1 = s.done := s.statusWord_getLsbD (by decide)
  have herrs : s.statusWord.getLsbD 8 = s.errs := s.statusWord_getLsbD (by decide)
  have hovr : s.statusWord.getLsbD 9 = s.ovr := s.statusWord_getLsbD (by decide)
  have hdoneie : s.ctrlWord.getLsbD 0 = s.doneie := s.ctrlWord_getLsbD (by decide)
  have herrie : s.ctrlWord.getLsbD 1 = s.errie := s.ctrlWord_getLsbD (by decide)
  simp only [hdone, herrs, hovr, hdoneie, herrie, State.irq, Bool.or_eq_true, Bool.and_eq_true]

/-- Settles O13: with nothing due and nothing queued, only time passes. -/
theorem idleChangesNothing : Obligations.IdleChangesNothing := fun s hp hq =>
  ⟨s.took [], step_idle (s.readyWord_none_iff.2 (.inl hp)) hq, ⟨rfl, rfl, rfl, rfl⟩, ⟨rfl, rfl, rfl, rfl, rfl, rfl⟩, hp, rfl,
    rfl, rfl, rfl⟩

theorem exec_next (i : Instr) (s : State) : ∃ t, exec i s = .next t := by
  obtain ⟨t, ht, -⟩ := exec_effect i s
  exact ⟨t, ht⟩

theorem engineStep_next (w : Word) (s : State) : ∃ t, engineStep w s = .next t := by
  cases hw : decode w with
  | instr i => rw [engineStep_instr hw]; exact exec_next i s
  | illegal why => exact ⟨_, engineStep_illegal hw s⟩

/-- Settles O14: a due word completes, be it legal or not, and every host event has its next state. -/
theorem noStepStops : Obligations.NoStepStops := by
  refine ⟨fun s => ?_, exec_next⟩
  cases hw : s.readyWord with
  | none => exact ⟨_, step_host hw⟩
  | some w => rw [step_engine hw]; exact engineStep_next w s

section sticky

variable {s t : State} {w : Word} {a : Access}

/-- None of DONE, ERRS and OVR falls from `s` to `t`. -/
structure State.StickyKept (s t : State) : Prop where
  done : s.done = true → t.done = true
  errs : s.errs = true → t.errs = true
  ovr  : s.ovr = true → t.ovr = true

theorem State.StickyKept.of_eq (hd : t.done = s.done) (he : t.errs = s.errs) (ho : t.ovr = s.ovr) : s.StickyKept t :=
  ⟨hd.symm ▸ id, he.symm ▸ id, ho.symm ▸ id⟩

/-- The sticky bits of STATUS with their numbers (spec/10_state.md R25). -/
def stickyBits : List (Nat × (State → Bool)) := [(1, State.done), (8, State.errs), (9, State.ovr)]

theorem State.StickyKept.of_mem (h : s.StickyKept t) {bit : Nat} {f : State → Bool} (hf : (bit, f) ∈ stickyBits)
    (hs : f s = true) : f t = true := by
  simp only [stickyBits, List.mem_cons, List.not_mem_nil, or_false, Prod.mk.injEq] at hf
  obtain ⟨-, rfl⟩ | ⟨-, rfl⟩ | ⟨-, rfl⟩ := hf
  · exact h.done hs
  · exact h.errs hs
  · exact h.ovr hs

/-- A bit that a STATUS write clears was written as 1 (spec/10_state.md R25). -/
theorem State.getLsbD_of_clearStatus {bit : Nat} {f : State → Bool} (hf : (bit, f) ∈ stickyBits) (hs : f s = true)
    (ht : f (s.clearStatus w) = false) : w.getLsbD bit = true := by
  simp only [stickyBits, List.mem_cons, List.not_mem_nil, or_false, Prod.mk.injEq] at hf
  obtain ⟨rfl, rfl⟩ | ⟨rfl, rfl⟩ | ⟨rfl, rfl⟩ := hf <;> simpa [State.clearStatus, hs] using ht

/-- A completion sets DONE, may set ERRS, and leaves OVR (spec/60_exceptions.md R118). -/
theorem State.Completed.stickyKept {e : BitVec 4} (h : s.Completed t e) (ho : t.ovr = s.ovr) : s.StickyKept t where
  done _ := h.done
  errs he := by rw [h.errs, he, Bool.true_or]
  ovr := ho.symm ▸ id

/-- A completion writes 0, 1 or 2 into ERR (spec/60_exceptions.md R110). -/
theorem engineStep_completed (h : engineStep w s = .next t) : ∃ e : BitVec 4, e.toNat ≤ 2 ∧ s.Completed t e := by
  obtain ⟨i, -, hi⟩ | ⟨-, -, rfl⟩ := engineStep_cases h
  · rcases (effect_of_exec hi).completed with hc | ⟨-, hc⟩
    · exact ⟨errOk, by decide, hc⟩
    · exact ⟨errLengthMismatch, by decide, hc⟩
  · exact ⟨errIllegalCommand, by decide, rfl, rfl, rfl, rfl⟩

theorem engineStep_stickyKept (h : engineStep w s = .next t) : s.StickyKept t := by
  obtain ⟨e, -, hc⟩ := engineStep_completed h
  exact hc.stickyKept (engineStep_sameControl h).ovr

/-- Of all accesses only a STATUS write can clear a sticky bit. -/
theorem State.AccessEffect.stickyKept_or_clear (h : s.AccessEffect a t) : s.StickyKept t ∨
    ∃ w, a.place.offset? = some 0x008 ∧ a.kind = .write w ∧ t = s.clearStatus w := by
  cases h with
  | outside | refused | read | readBusy | ignored | ctrl | data | hazard => exact .inl (.of_eq rfl rfl rfl)
  | status w _ hk hp => exact .inr ⟨w, hp, hk, rfl⟩
  | cmd w =>
    cases hb : s.busy
    · rw [State.submit_idle w hb]; exact .inl (.of_eq rfl rfl rfl)
    · rw [State.submit_busy w hb]; exact .inl ⟨id, id, fun _ => rfl⟩
  | len i w =>
    obtain ⟨v, e⟩ := s.writeLen_eq_with_v i w
    rw [e]
    exact .inl (.of_eq rfl rfl rfl)

theorem State.poll_stickyKept (s : State) : s.StickyKept (s.hostEvent .poll) := by
  obtain ⟨hd, he, ho⟩ | ⟨w, -, hk, -⟩ := (s.hostAccess_effect ⟨.offset 0x008, .bits32, .read⟩).stickyKept_or_clear
  · simp only [State.hostEvent]
    split <;> exact ⟨hd, he, ho⟩
  · cases hk

end sticky

/-- Settles O41: a completion keeps the three bits, and of the host's events only a STATUS write and the assertion of `rst` can
clear one. -/
theorem stickyBitsClearedOnlyByHost : Obligations.StickyBitsClearedOnlyByHost := by
  intro s t h bit f hf hs ht
  have hfall : ¬ s.StickyKept t := fun hk => Bool.false_ne_true (ht.symm.trans (hk.of_mem hf hs))
  obtain ⟨w, -, he⟩ | ⟨-, -, rfl⟩ | ⟨e, rest, hw, hq, rfl⟩ := step_cases h
  · exact absurd (engineStep_stickyKept he) hfall
  · exact absurd (.of_eq rfl rfl rfl) hfall
  · cases e with
    | access a =>
      obtain ⟨hd, he, ho⟩ | ⟨w, hp, hk, e⟩ := ((s.took rest).hostAccess_effect a).stickyKept_or_clear
      · exact absurd ⟨hd, he, ho⟩ hfall
      · have htook : s.StickyKept (s.took rest) := .of_eq rfl rfl rfl
        exact .inl ⟨a, w, rest, ⟨hw, hq⟩, hp, hk, State.getLsbD_of_clearStatus hf (htook.of_mem hf hs) (e ▸ ht)⟩
    | poll =>
      obtain ⟨hd, he, ho⟩ := (s.took rest).poll_stickyKept
      exact absurd ⟨hd, he, ho⟩ hfall
    | rst level =>
      cases level
      · exact absurd (.of_eq rfl rfl rfl) hfall
      · exact .inr ⟨rest, hw, hq⟩

section invariant

variable {s t : State} {w : Word} {a : Access} {i : Instr}

/-- The clauses of the invariant on OUT: characters below OUTLEN and zeros from there (spec/10_state.md R39). -/
structure State.OutIsText (s : State) : Prop where
  tail  : ∀ k : Fin 143, s.outlen.val ≤ k.val → s.out[k] = 0
  chars : ∀ k : Fin 143, k.val < s.outlen.val → isOutputChar s.out[k] = true

theorem State.OutIsText.of_eq (h : s.OutIsText) (ho : t.out = s.out) (hl : t.outlen = s.outlen) : t.OutIsText :=
  ⟨by rw [ho, hl]; exact h.tail, by rw [ho, hl]; exact h.chars⟩

theorem State.Emitted.outIsText {str : List Byte} (h : t.Emitted str) (hstr : IsText str) : t.OutIsText where
  tail k hk := by
    rw [h.chars, List.getD_eq_default _ _ (h.outlen ▸ hk)]
  chars k hk := by
    have hlt : k.val < str.length := h.outlen ▸ hk
    rw [h.chars, List.getD_eq_getElem _ _ hlt]
    exact hstr _ (List.getElem_mem hlt)

/-- A formatter writes text, and no other command writes OUT. -/
theorem exec_outIsText (ho : s.OutIsText) (h : exec i s = .next t) : t.OutIsText := by
  cases hi : i.isFormatter
  · obtain ⟨hout, hlen⟩ := (effect_of_exec h).out_eq hi
    exact ho.of_eq hout hlen
  · obtain ⟨t', ht', hemit⟩ := exec_formatter_emitted hi s
    cases h.symm.trans ht'
    exact hemit.outIsText (i.isText_text s)

/-- CARD writes a count in range, and no other command writes CNT (spec/42_cardinality.md R93). -/
theorem exec_cnt_le (hc : s.cnt.toNat ≤ 2 ^ 128) (h : exec i s = .next t) : t.cnt.toNat ≤ 2 ^ 128 := by
  by_cases hi : ∃ a b, i = .card a b
  · obtain ⟨a, b, rfl⟩ := hi
    obtain ⟨t', ht', -, hle, -⟩ := cardCountInRange s a b
    cases h.symm.trans ht'
    exact hle
  · rw [(effect_of_exec h).cnt_eq fun a b e => hi ⟨a, b, e⟩]
    exact hc

/-- The clauses of the invariant on the model's bookkeeping. -/
structure State.BookkeepingOk (s : State) : Prop where
  idle   : s.pend = none → s.wait = 0 ∧ s.hazard = false
  hazard : s.hazard = true → s.faults.hostHazard = true

/-- An engine with no hazard of its own and nothing to wait for. -/
theorem State.BookkeepingOk.of_rest (hw : s.wait = 0) (hz : s.hazard = false) : s.BookkeepingOk :=
  ⟨fun _ => ⟨hw, hz⟩, fun h => absurd (hz.symm.trans h) Bool.false_ne_true⟩

theorem State.Inv.of_parts (herr : s.err.toNat ≤ 2) (hcnt : s.cnt.toNat ≤ 2 ^ 128) (hout : s.OutIsText)
    (hbook : s.BookkeepingOk) (hrst : s.rst = true → s.AtReset) : s.Inv :=
  ⟨herr, hcnt, hout.tail, hout.chars, hbook.idle, hbook.hazard, hrst⟩

theorem State.Inv.outIsText (h : s.Inv) : s.OutIsText := ⟨h.tail, h.chars⟩

theorem State.ExecEffect.hazard_eq_false (h : s.ExecEffect i t) : t.hazard = false := by
  cases h <;> exact State.complete_hazard _ _

theorem engineStep_hazard (h : engineStep w s = .next t) : t.hazard = false := by
  obtain ⟨i, -, hi⟩ | ⟨-, -, rfl⟩ := engineStep_cases h
  · exact (effect_of_exec hi).hazard_eq_false
  · exact State.complete_hazard _ _

theorem engineStep_results (hs : s.Inv) (h : engineStep w s = .next t) : t.cnt.toNat ≤ 2 ^ 128 ∧ t.OutIsText := by
  obtain ⟨i, -, hi⟩ | ⟨-, -, rfl⟩ := engineStep_cases h
  · exact ⟨exec_cnt_le hs.cnt hi, exec_outIsText hs.outIsText hi⟩
  · exact ⟨hs.cnt, hs.outIsText.of_eq rfl rfl⟩

/-- The completion of a due command keeps the invariant. -/
theorem State.Inv.engineStep (hs : s.Inv) (hw : s.readyWord = some w) (h : engineStep w s = .next t) : t.Inv := by
  obtain ⟨-, hwait, hrst⟩ := (s.readyWord_some_iff w).1 hw
  obtain ⟨e, he, hc⟩ := engineStep_completed h
  obtain ⟨hcnt, hout⟩ := engineStep_results hs h
  have hctl := engineStep_sameControl h
  exact .of_parts (hc.err.symm ▸ he) hcnt hout (.of_rest (hctl.wait.trans hwait) (engineStep_hazard h))
    fun hr => absurd (hrst.symm.trans (hctl.rst.symm.trans hr)) Bool.false_ne_true

/-- The reset values are values of the data registers, the flags and the pending command. -/
theorem State.AtReset.congr (h : s.AtReset) (hd : s.SameData t) (hf : s.SameFlags t) (hp : t.pend = s.pend) : t.AtReset where
  len i := by rw [State.buf, hd.v]; exact h.len i
  wr i := by rw [State.buf, hd.v]; exact h.wr i
  cnt := hd.cnt.trans h.cnt
  out := by rw [hd.out]; exact h.out
  outlen := hd.outlen.trans h.outlen
  pend := hp.trans h.pend
  status := by
    rw [State.statusWord, State.busy, hp, hf.done, hf.err, hf.errs, hf.ovr]
    exact h.status
  ctrl := by
    rw [State.ctrlWord, hf.doneie, hf.errie]
    exact h.ctrl
  irq := by
    rw [State.irq, hf.done, hf.doneie, hf.errs, hf.ovr, hf.errie]
    exact h.irq

/-- The invariant says of the host's queue nothing, and of the wait only that an idle engine has none. -/
theorem State.Inv.with_host_wait (hs : s.Inv) (q : List HostEvent) {n : Nat} (hn : s.pend = none → n = 0) :
    State.Inv { s with host := q, wait := n } :=
  .of_parts hs.err hs.cnt (hs.outIsText.of_eq rfl rfl) ⟨fun hp => ⟨hn hp, (hs.idle hp).2⟩, hs.hazard⟩
    fun hr => (hs.rst hr).congr ⟨rfl, rfl, rfl, rfl⟩ ⟨rfl, rfl, rfl, rfl, rfl, rfl⟩ rfl

theorem State.Inv.took (hs : s.Inv) (rest : List HostEvent) : (s.took rest).Inv :=
  hs.with_host_wait rest fun hp => by rw [(hs.idle hp).1]

theorem State.Inv.refuseAccess (hs : s.Inv) : s.refuseAccess.Inv :=
  .of_parts hs.err hs.cnt (hs.outIsText.of_eq rfl rfl) ⟨hs.idle, hs.hazard⟩
    fun hr => (hs.rst hr).congr ⟨rfl, rfl, rfl, rfl⟩ ⟨rfl, rfl, rfl, rfl, rfl, rfl⟩ rfl

/-- While `rst` is asserted an access is without effect or refused (spec/70_reset_and_hazards.md R129). -/
theorem State.AccessEffect.of_rst (hr : s.rst = true) (h : s.AccessEffect a t) : t = s ∨ t = s.refuseAccess := by
  cases h with
  | outside => exact .inl rfl
  | refused => exact .inr rfl
  | read _ hr' | readBusy hr' | ignored _ hr' | cmd _ hr' | status _ hr' | ctrl _ hr' | len _ _ hr' | data _ _ _ hr'
  | hazard _ _ _ _ hr' => exact absurd (hr'.symm.trans hr) Bool.false_ne_true

/-- No access writes ERR or drives `rst`. -/
theorem State.AccessEffect.err_rst (h : s.AccessEffect a t) : t.err = s.err ∧ t.rst = s.rst := by
  cases h with
  | outside | refused | read | readBusy | ignored | status | ctrl | data | hazard => exact ⟨rfl, rfl⟩
  | cmd w =>
    cases hb : s.busy
    · rw [State.submit_idle w hb]; exact ⟨rfl, rfl⟩
    · rw [State.submit_busy w hb]; exact ⟨rfl, rfl⟩
  | len i w =>
    obtain ⟨v, e⟩ := s.writeLen_eq_with_v i w
    rw [e]
    exact ⟨rfl, rfl⟩

theorem State.Inv.bookkeepingOk (hs : s.Inv) : s.BookkeepingOk := ⟨hs.idle, hs.hazard⟩

theorem State.BookkeepingOk.submit (h : s.BookkeepingOk) (w : Word) : (s.submit w).BookkeepingOk := by
  cases hb : s.busy
  · rw [State.submit_idle w hb]; exact ⟨nofun, h.hazard⟩
  · rw [State.submit_busy w hb]; exact ⟨h.idle, h.hazard⟩

/-- A hazard is recorded as it arises, and only while a command is pending (spec/70_reset_and_hazards.md R133). -/
theorem State.bookkeepingOk_hazardWrite (hb : s.busy = true) (i : Reg) (wr : Vector Bool 16) :
    (s.hazardWrite i wr).BookkeepingOk :=
  ⟨fun hp => absurd ((State.busy_eq_false (s := s) hp).symm.trans hb) Bool.false_ne_true, fun _ => rfl⟩

theorem State.AccessEffect.bookkeepingOk (hs : s.BookkeepingOk) (h : s.AccessEffect a t) : t.BookkeepingOk := by
  cases h with
  | outside | refused | read | readBusy | ignored | status | ctrl | data => exact ⟨hs.idle, hs.hazard⟩
  | cmd w => exact hs.submit w
  | len i w =>
    obtain ⟨v, e⟩ := s.writeLen_eq_with_v i w
    rw [e]
    exact ⟨hs.idle, hs.hazard⟩
  | hazard i wr _ _ _ hb => exact State.bookkeepingOk_hazardWrite hb i wr

theorem State.Inv.hostAccess (hs : s.Inv) (a : Access) : (s.hostAccess a).Inv := by
  have heffect := s.hostAccess_effect a
  cases hr : s.rst
  · obtain ⟨herr, hrst⟩ := heffect.err_rst
    obtain ⟨hcnt, hout, hlen, -⟩ := heffect.hostFrame
    exact .of_parts (herr.symm ▸ hs.err) (hcnt.symm ▸ hs.cnt) (hs.outIsText.of_eq hout hlen)
      (heffect.bookkeepingOk hs.bookkeepingOk)
      fun h => absurd ((hrst.trans hr).symm.trans h) Bool.false_ne_true
  · rcases heffect.of_rst hr with e | e <;> rw [e]
    · exact hs
    · exact hs.refuseAccess

/-- The state in which the assertion of `rst` leaves the machine (spec/70_reset_and_hazards.md R127). -/
theorem State.resetAt_inv_asserted (epoch draws : Nat) (q : List HostEvent) (rs : List Word) :
    State.Inv { State.resetAt epoch with rst := true, draws := draws, host := q, reads := rs } :=
  have h := State.resetAt_inv epoch
  .of_parts h.err h.cnt (h.outIsText.of_eq rfl rfl) ⟨h.idle, h.hazard⟩
    fun _ => (State.resetAt_atReset epoch).congr ⟨rfl, rfl, rfl, rfl⟩ ⟨rfl, rfl, rfl, rfl, rfl, rfl⟩ rfl

theorem State.Inv.driveRst (hs : s.Inv) (level : Bool) : (s.driveRst level).Inv := by
  cases level
  · exact .of_parts hs.err hs.cnt (hs.outIsText.of_eq rfl rfl) ⟨hs.idle, hs.hazard⟩ nofun
  · simp only [State.driveRst, if_true]
    split
    · exact hs
    · exact State.resetAt_inv_asserted _ _ _ _

theorem State.Inv.hostEvent (hs : s.Inv) (e : HostEvent) : (s.hostEvent e).Inv := by
  cases e with
  | access a => exact hs.hostAccess a
  | poll =>
    have ht := hs.hostAccess ⟨.offset 0x008, .bits32, .read⟩
    simp only [State.hostEvent]
    split
    · exact ht.with_host_wait _ fun hp => (ht.idle hp).1
    · exact ht
  | rst level => exact hs.driveRst level

end invariant

/-- Settles O3: the completion of a due command keeps the invariant, and so does every event of the host. -/
theorem stepKeepsInvariant : Obligations.StepKeepsInvariant := by
  intro s t hs h
  obtain ⟨w, hw, he⟩ | ⟨-, -, rfl⟩ | ⟨e, rest, -, -, rfl⟩ := step_cases h
  · exact hs.engineStep hw he
  · exact hs.took []
  · exact (hs.took rest).hostEvent e

end Sys2Proof.Machine
end

section
/-! Reset and hazards (spec/70_reset_and_hazards.md): the `rst` input and accesses while it is asserted, the accesses that race with
a pending command, what the host owes, and that a pending command completes. -/

namespace Sys2Proof.Machine

section reset

variable {s : State} {rest : List HostEvent}

/-- On assertion every register takes its reset value and the command is discarded (spec/70_reset_and_hazards.md R127). -/
theorem State.driveRst_asserted (h : s.rst = false) : s.driveRst true =
    { State.resetAt (s.resets + 1) with rst := true, draws := s.draws, host := s.host, reads := s.reads } := by
  simp [State.driveRst, h]

theorem State.readyWord_of_rst (h : s.rst = true) : s.readyWord = none :=
  s.readyWord_none_iff.2 (.inr (.inr h))

theorem State.accessDefined_of_rst (h : s.rst = true) (width : Width) (off : Nat) : s.accessDefined width off = false := by
  simp [State.accessDefined, h]

end reset

/-- Settles O4: the assertion leaves the state after a reset, and the release keeps the reset values the invariant has. -/
theorem rstResets : Obligations.RstResets := by
  refine ⟨fun s rest h hr => ?_, fun s rest hs hr h => ?_⟩
  · have hstep : step s = .next ((s.took rest).driveRst true) := step_event h.1 h.2
    rw [State.driveRst_asserted (s := s.took rest) hr] at hstep
    exact ⟨_, hstep, (State.resetAt_inv_asserted _ _ _ _).rst rfl, rfl, rfl, rfl, rfl⟩
  · have hreset : ((s.took rest).driveRst false).AtReset :=
      (hs.rst hr).congr ⟨rfl, rfl, rfl, rfl⟩ ⟨rfl, rfl, rfl, rfl, rfl, rfl⟩ rfl
    exact ⟨_, step_event h.1 h.2, hreset, rfl, rfl, rfl⟩

/-- Settles O5: no access is defined while `rst` is asserted, so it comes to `refuseAccess`. -/
theorem accessDuringRstRefused : Obligations.AccessDuringRstRefused := by
  intro s off width kind rest hs hr ho hq
  have hplace : (Place.offset off).offset? = some off := by rw [windowOffset_offset, if_pos ho]
  refine ⟨(s.took rest).refuseAccess, ?_, rfl, hr, (hs.rst hr).pend, ⟨rfl, rfl, rfl, rfl⟩,
    ⟨rfl, rfl, rfl, rfl, rfl, rfl⟩, rfl, rfl⟩
  rw [step_access ⟨State.readyWord_of_rst hr, hq⟩,
    State.hostAccess_refused hplace (State.accessDefined_of_rst (s := s.took rest) hr _ _)]

section races

variable {s : State} {off : Nat} {rest : List HostEvent}

/-- The offsets of the registers that a host must not read while BUSY = 1 (spec/70_reset_and_hazards.md R134). -/
theorem regAt_isResult (h : off = 0x010 ∨ (0x020 ≤ off ∧ off < 0x034) ∨
    (0x100 ≤ off ∧ off < 0x200 ∧ (off % 0x20 = 0 ∨ 0x10 ≤ off % 0x20)) ∨ (0x200 ≤ off ∧ off < 0x290)) :
    (regAt off).isResult = true := by
  rcases regAt_cases off with c | c | c | c | c | c | ⟨-, j, c⟩ | ⟨-, i, -, c⟩ | ⟨-, i, j, -, c⟩ | ⟨-, j, c⟩ | c
  iterate 4 · exact absurd c.1 (by omega)
  · rw [c.2]; rfl
  · exact absurd c.1 (by omega)
  iterate 4 · rw [c]; rfl
  · exact absurd c.1 (by omega)

/-- A write at a buffer register's offset while a command is pending is a hazard of that register
(spec/70_reset_and_hazards.md R133). -/
theorem State.hostWrite_buffer_busy (hb : s.busy = true) (x : Word)
    (h : 0x100 ≤ off ∧ off < 0x200 ∧ (off % 0x20 = 0 ∨ 0x10 ≤ off % 0x20)) :
    ∃ (i : Reg) (wr : Vector Bool 16), i.val = (off - 0x100) / 0x20 ∧
      s.hostWrite (regAt off) x = s.hazardWrite i wr := by
  rcases regAt_cases off with c | c | c | c | c | c | c | ⟨-, i, hi, c⟩ | ⟨-, i, j, hi, c⟩ | c | c
  iterate 7 · exact absurd c.1 (by omega)
  · exact ⟨i, _, hi, by rw [c, State.hostWrite_len_busy hb]⟩
  · exact ⟨i, _, hi, by rw [c, State.hostWrite_data_busy hb]⟩
  iterate 2 · exact absurd c.1 (by omega)

end races

/-- Settles O57: the read is one of a result register, so it comes to `replyFree`. -/
theorem busyResultReadIsFree : Obligations.BusyResultReadIsFree := by
  intro s off rest hr hp h h4 hoff
  refine ⟨(s.took rest).replyFree, ?_, rfl, rfl, rfl, ⟨rfl, rfl, rfl, rfl⟩, ⟨rfl, rfl, rfl, rfl, rfl, rfl⟩, rfl⟩
  rw [step_event h.1 h.2, State.event_read (s := s.took rest) hr h4 (by omega),
    State.hostRead_busy (s := s.took rest) (State.busy_eq_true hp) (regAt_isResult hoff)]

/-- Settles O58: the write is one of a buffer register, so it comes to `hazardWrite`. -/
theorem bufferWriteWhileBusyIsHazard : Obligations.BufferWriteWhileBusyIsHazard := by
  intro s off x rest hr hp h h4 hlo hhi hoff
  obtain ⟨i, wr, hi, hwrite⟩ :=
    State.hostWrite_buffer_busy (s := s.took rest) (State.busy_eq_true hp) x ⟨hlo, hhi, hoff⟩
  have hstep := step_write hr h rfl h4 (by omega)
  rw [hwrite] at hstep
  exact ⟨_, hstep, rfl, State.hazardWrite_hazard _ i wr, rfl,
    fun q hq => State.hazardWrite_other _ wr fun e => hq (e ▸ hi), rfl, rfl, rfl, ⟨rfl, rfl, rfl, rfl, rfl, rfl⟩, rfl⟩

section duties

variable {s t : State} {a : Access}

/-- What the host owes with an access: it is 32 bits wide, aligned and inside the window, and writes no buffer register while
BUSY = 1 (spec/20_memory.md R53, spec/70_reset_and_hazards.md R131, R132). -/
def State.Dutiful (s : State) (a : Access) : Prop :=
  a.width = .bits32 ∧ ∃ off, a.place.offset? = some off ∧ off % 4 = 0 ∧
    ∀ w, a.kind = .write w → s.busy = true → ¬ (0x100 ≤ off ∧ off < 0x200)

theorem State.dutiful_poll (s : State) : s.Dutiful ⟨.offset 0x008, .bits32, .read⟩ := ⟨rfl, 0x008, rfl, rfl, nofun⟩

theorem State.submit_faults (s : State) (w : Word) : (s.submit w).faults = s.faults := by
  cases hb : s.busy
  · rw [State.submit_idle w hb]
  · rw [State.submit_busy w hb]

/-- A dutiful access is neither refused nor a hazard, and no other access records anything. -/
theorem State.AccessEffect.faults_eq (hr : s.rst = false) (hd : s.Dutiful a) (h : s.AccessEffect a t) :
    t.faults = s.faults := by
  obtain ⟨hwidth, off, hoff, halign, hbuffer⟩ := hd
  cases h with
  | outside | read | readBusy | ignored | status | ctrl | data => rfl
  | cmd w => exact s.submit_faults w
  | len i w =>
    obtain ⟨v, e⟩ := s.writeLen_eq_with_v i w
    rw [e]
  | refused off' hoff' hundef =>
    cases hoff.symm.trans hoff'
    simp [State.accessDefined, hr, hwidth, halign] at hundef
  | hazard i wr w off' _ hb hk hoff' hrange =>
    cases hoff.symm.trans hoff'
    exact absurd hrange (hbuffer w hk hb)

/-- An event of a dutiful host records nothing. -/
theorem State.hostEvent_good (hg : s.good) (hr : s.rst = false) {e : HostEvent}
    (hd : ∀ a, e = .access a → s.Dutiful a) : (s.hostEvent e).good := by
  cases e with
  | access a => exact ((s.hostAccess_effect a).faults_eq hr (hd a rfl)).trans hg
  | poll =>
    have hread := ((s.hostAccess_effect _).faults_eq hr s.dutiful_poll).trans hg
    simp only [State.hostEvent]
    split <;> exact hread
  | rst level =>
    cases level
    · exact hg
    · simp only [State.hostEvent, State.driveRst_asserted hr]
      rfl

/-- A completion records nothing when the data operands of its command were written (spec/10_state.md R45). -/
theorem engineStep_good {w : Word} (hg : s.good) (hz : s.hazard = false) (h : engineStep w s = .next t)
    (hready : ∀ i, decode w = .instr i → ∀ r ∈ i.dataOperands s, (s.buf r).ready = true) : t.good := by
  obtain ⟨i, hi, he⟩ | ⟨-, -, rfl⟩ := engineStep_cases h
  · have hnone : i.readsUnwritten s = false := by
      rw [Instr.readsUnwritten_eq hz, List.all_eq_true.2 (hready i hi), Bool.not_true]
    rw [State.good, (effect_of_exec he).faults, hnone, State.noted_false, hg]
  · exact hg

end duties

/-- Settles O43: neither a completion on written operands nor a dutiful event of the host records anything. -/
theorem dutifulHostStaysGood : Obligations.DutifulHostStaysGood := by
  intro s t hg hz hr h hoperands haccess
  obtain ⟨w, hw, he⟩ | ⟨-, -, rfl⟩ | ⟨e, rest, hw, hq, rfl⟩ := step_cases h
  · exact engineStep_good hg hz he fun i => hoperands w i hw
  · exact hg
  · exact State.hostEvent_good (s := s.took rest) hg hr fun a ha => haccess a rest ⟨hw, ha ▸ hq⟩

section liveness

variable {s t : State} {w : Word} {n : Nat}

/-- The command `w` completes after `n` more steps: `rst` is released, and the host will not assert it. -/
structure State.Awaits (s : State) (w : Word) (n : Nat) : Prop where
  pend : s.pend = some w
  rst  : s.rst = false
  wait : s.wait = n
  host : ∀ e ∈ s.host, e ≠ .rst true

/-- While a command is pending no access touches its wait or the host's queue. -/
theorem State.AccessEffect.wait_host {a : Access} (hb : s.busy = true) (h : s.AccessEffect a t) :
    t.wait = s.wait ∧ t.host = s.host := by
  cases h with
  | outside | refused | read | readBusy | ignored | status | ctrl | hazard => exact ⟨rfl, rfl⟩
  | cmd w => rw [State.submit_busy w hb]; exact ⟨rfl, rfl⟩
  | len _ _ _ hidle | data _ _ _ _ hidle => exact absurd (hidle.symm.trans hb) Bool.false_ne_true

theorem State.Awaits.hostAccess (h : s.Awaits w n) (a : Access) : (s.hostAccess a).Awaits w n := by
  have hb : s.busy = true := State.busy_eq_true (by simp [h.pend])
  have heffect := s.hostAccess_effect a
  obtain ⟨hwait, hhost⟩ := heffect.wait_host hb
  exact ⟨(heffect.pendingHeld hb).pend.trans h.pend, heffect.err_rst.2.trans h.rst, hwait.trans h.wait, hhost ▸ h.host⟩

/-- No event but the assertion of `rst` ends the wait; `poll` stays in the queue (spec/00_scope.md R13). -/
theorem State.Awaits.hostEvent (h : s.Awaits w n) {e : HostEvent} (he : e ≠ .rst true) : (s.hostEvent e).Awaits w n := by
  cases e with
  | access a => exact h.hostAccess a
  | poll =>
    obtain ⟨hpend, hrst, hwait, hhost⟩ := h.hostAccess ⟨.offset 0x008, .bits32, .read⟩
    simp only [State.hostEvent]
    split
    · exact ⟨hpend, hrst, hwait, List.forall_mem_cons.2 ⟨nofun, hhost⟩⟩
    · exact ⟨hpend, hrst, hwait, hhost⟩
  | rst level =>
    cases level
    · exact ⟨h.pend, rfl, h.wait, h.host⟩
    · exact absurd rfl he

theorem State.Awaits.took (h : s.Awaits w (n + 1)) {rest : List HostEvent} (hrest : ∀ e ∈ rest, e ≠ .rst true) :
    (s.took rest).Awaits w n :=
  ⟨h.pend, h.rst, by rw [State.took_wait, h.wait, Nat.add_sub_cancel], hrest⟩

/-- A command that is not due waits one step less after each step (spec/40_command_execution.md R77). -/
theorem State.Awaits.next (h : s.Awaits w (n + 1)) : ∃ t, step s = .next t ∧ t.Awaits w n := by
  have hw : s.readyWord = none := s.readyWord_none_iff.2 (.inr (.inl (by simp [h.wait])))
  cases hq : s.host with
  | nil => exact ⟨_, step_idle hw hq, h.took nofun⟩
  | cons e rest =>
    obtain ⟨he, hrest⟩ := List.forall_mem_cons.1 (hq ▸ h.host)
    exact ⟨_, step_event hw hq, (h.took hrest).hostEvent he⟩

/-- A due command completes with DONE = 1 (spec/40_command_execution.md R79). -/
theorem State.Awaits.completes (h : s.Awaits w 0) : ∃ t, step s = .next t ∧ t.pend = none ∧ t.done = true := by
  obtain ⟨t, ht⟩ := engineStep_next w s
  obtain ⟨e, -, hc⟩ := engineStep_completed ht
  exact ⟨t, (step_engine ((s.readyWord_some_iff w).2 ⟨h.pend, h.wait, h.rst⟩)).trans ht, hc.pend, hc.done⟩

/-- A run goes on from the state after its first step. -/
theorem run_succ (h : step s = .next t) (k : Nat) : Host.Core.run core (k + 1) s = Host.Core.run core k t := by
  have hcore : core.step s = .next t := h
  simp only [Host.Core.run, hcore]

theorem State.Awaits.run (k : Nat) (h : s.Awaits w (n + k)) : ∃ t, Host.Core.run core k s = .next t ∧ t.Awaits w n := by
  induction k generalizing s with
  | zero => exact ⟨s, rfl, h⟩
  | succ k ih =>
    obtain ⟨t, hstep, ht⟩ := h.next
    rw [run_succ hstep]
    exact ih ht

theorem State.Awaits.run_completes (h : s.Awaits w n) :
    ∃ t, Host.Core.run core (n + 1) s = .next t ∧ t.pend = none ∧ t.done = true := by
  induction n generalizing s with
  | zero =>
    obtain ⟨t, hstep, hdone⟩ := h.completes
    exact ⟨t, run_succ hstep 0, hdone⟩
  | succ n ih =>
    obtain ⟨t, hstep, ht⟩ := h.next
    rw [run_succ hstep]
    exact ih ht

end liveness

/-- Settles O12: each step before the command is due takes one from its wait, and the step after them completes it. -/
theorem pendingCommandCompletes : Obligations.PendingCommandCompletes := by
  intro s hp hr hhost
  obtain ⟨w, hw⟩ := Option.ne_none_iff_exists'.1 hp
  refine ⟨fun n hn => ?_, State.Awaits.run_completes ⟨hw, hr, rfl, hhost⟩⟩
  obtain ⟨t, ht, hawaits⟩ := State.Awaits.run (n := s.wait - n) n ⟨hw, hr, (Nat.sub_add_cancel hn).symm, hhost⟩
  exact ⟨t, ht, hawaits.pend.trans hw.symm⟩

end Sys2Proof.Machine
end
